-- ==== Sys2Proof/Word.lean ====
section
/-! DEFINITION. The machine's word types (00_scope.md R14, R15). -/

namespace Sys2Proof

/-- A data byte: A, X, Y, SP, P and every memory cell (R12). -/
abbrev Byte := BitVec 8

/-- A 16-bit CPU address, and PC (R12, R35). -/
abbrev Addr := BitVec 16

/-- A 14-bit PPU address (R62, R100). -/
abbrev VAddr := BitVec 14

end Sys2Proof
end

