-- ==== Sys2Proof/Syntax.lean ====
section
/-! DEFINITION. The instruction set as syntax: the operations, the operand forms and the one inductive
`Instr` (30_encoding.md R144 to R151). An operand form that selects an opcode is an argument of the
constructor, so that one constructor carries every row of its operation in spec/opcode_table.json
(DESIGN CHOICE: log 1). -/

namespace Sys2Proof

/-- The operand forms of R145: the source's eleven tags, with `NoneAddressing` split into the three
forms that it covers (Implied, Accumulator, Relative). -/
inductive Mode where
  | implied
  | accumulator
  | immediate
  | zeroPage
  | zeroPageX
  | zeroPageY
  | absolute
  | absoluteX
  | absoluteY
  | indirect
  | indirectX
  | indirectY
  | relative
  deriving DecidableEq, Repr

/-- Formats F1, F2 and F3: the length in bytes of an instruction of a mode (R140 to R143, R145). -/
def Mode.length : Mode → Nat
  | .implied | .accumulator => 1
  | .immediate | .zeroPage | .zeroPageX | .zeroPageY | .indirectX | .indirectY | .relative => 2
  | .absolute | .absoluteX | .absoluteY | .indirect => 3

/-- The operand forms that name a memory location (R181 to R184, R186, R187, R189, R190). -/
inductive MemOperand where
  | zp (z : Byte)
  | zpX (z : Byte)
  | zpY (z : Byte)
  | abs (a : Addr)
  | absX (a : Addr)
  | absY (a : Addr)
  | indX (z : Byte)
  | indY (z : Byte)
  deriving DecidableEq, Repr

/-- The operand of a read-class operation: the immediate byte (R180) or a memory location. -/
inductive Source where
  | imm (v : Byte)
  | mem (m : MemOperand)
  deriving DecidableEq, Repr

/-- The operand of a shift or rotate: A or a memory location (42_arithmetic_logic.md, section 6). -/
inductive ShiftOperand where
  | acc
  | mem (m : MemOperand)
  deriving DecidableEq, Repr

/-- The operand of an undocumented NOP: none, or a read whose value is discarded (R360). -/
inductive NopOperand where
  | implied
  | read (o : Source)
  deriving DecidableEq, Repr

/-- The operation field of an Opcode Table entry (R146). The undocumented NOPs and the undocumented
SBC (R360, R361) are kept apart from the documented operations they repeat. -/
inductive Op where
  | lda | ldx | ldy | sta | stx | sty | tax | tay | txa | tya | tsx | txs
  | adc | sbc | and | ora | eor | cmp | cpx | cpy | bit
  | inc | dec | inx | iny | dex | dey | asl | lsr | rol | ror
  | jmp | jsr | rts | rti | bpl | bmi | bvc | bvs | bcc | bcs | bne | beq | brk | nop
  | pha | pla | php | plp | clc | sec | cli | sei | cld | sed | clv
  | lax | sax | slo | rla | sre | rra | dcp | isb | nopUndoc | sbcUndoc
  deriving DecidableEq, Repr

/-- Whether an operation is one of the documented 151 opcodes' (R148) or of the 76 (R149). -/
def Op.documented : Op → Bool
  | .lax | .sax | .slo | .rla | .sre | .rra | .dcp | .isb | .nopUndoc | .sbcUndoc => false
  | _ => true

/-- The instructions. One constructor per operation of spec/opcode_table.json; `jmp` and `jmpInd` are
JMP's two rules (R290, R291), `nopUndoc` and `sbcUndoc` the undocumented copies (R360, R361), and
`undefined` is the table's UNDEFINED: a code with no entry (R150). -/
inductive Instr where
  | lda (o : Source)
  | ldx (o : Source)
  | ldy (o : Source)
  | sta (m : MemOperand)
  | stx (m : MemOperand)
  | sty (m : MemOperand)
  | tax
  | tay
  | txa
  | tya
  | tsx
  | txs
  | adc (o : Source)
  | sbc (o : Source)
  | and (o : Source)
  | ora (o : Source)
  | eor (o : Source)
  | cmp (o : Source)
  | cpx (o : Source)
  | cpy (o : Source)
  | bit (m : MemOperand)
  | inc (m : MemOperand)
  | dec (m : MemOperand)
  | inx
  | iny
  | dex
  | dey
  | asl (o : ShiftOperand)
  | lsr (o : ShiftOperand)
  | rol (o : ShiftOperand)
  | ror (o : ShiftOperand)
  | jmp (target : Addr)
  | jmpInd (ptr : Addr)
  | jsr (target : Addr)
  | rts
  | rti
  | bpl (d : Byte)
  | bmi (d : Byte)
  | bvc (d : Byte)
  | bvs (d : Byte)
  | bcc (d : Byte)
  | bcs (d : Byte)
  | bne (d : Byte)
  | beq (d : Byte)
  | brk
  | nop
  | pha
  | pla
  | php
  | plp
  | clc
  | sec
  | cli
  | sei
  | cld
  | sed
  | clv
  | lax (m : MemOperand)
  | sax (m : MemOperand)
  | slo (m : MemOperand)
  | rla (m : MemOperand)
  | sre (m : MemOperand)
  | rra (m : MemOperand)
  | dcp (m : MemOperand)
  | isb (m : MemOperand)
  | nopUndoc (code : Byte) (o : NopOperand)
  | sbcUndoc (v : Byte)
  | undefined (code : Byte)
  deriving DecidableEq, Repr

/-- The mode of a memory operand form (R145). -/
def MemOperand.mode : MemOperand → Mode
  | .zp _   => .zeroPage
  | .zpX _  => .zeroPageX
  | .zpY _  => .zeroPageY
  | .abs _  => .absolute
  | .absX _ => .absoluteX
  | .absY _ => .absoluteY
  | .indX _ => .indirectX
  | .indY _ => .indirectY

def Source.mode : Source → Mode
  | .imm _ => .immediate
  | .mem m => m.mode

def ShiftOperand.mode : ShiftOperand → Mode
  | .acc   => .accumulator
  | .mem m => m.mode

def NopOperand.mode : NopOperand → Mode
  | .implied => .implied
  | .read o  => o.mode

/-- The operation of an instruction; a code with no entry has none (R146, R150). -/
def Instr.op : Instr → Option Op
  | .lda _ => some .lda
  | .ldx _ => some .ldx
  | .ldy _ => some .ldy
  | .sta _ => some .sta
  | .stx _ => some .stx
  | .sty _ => some .sty
  | .tax => some .tax
  | .tay => some .tay
  | .txa => some .txa
  | .tya => some .tya
  | .tsx => some .tsx
  | .txs => some .txs
  | .adc _ => some .adc
  | .sbc _ => some .sbc
  | .and _ => some .and
  | .ora _ => some .ora
  | .eor _ => some .eor
  | .cmp _ => some .cmp
  | .cpx _ => some .cpx
  | .cpy _ => some .cpy
  | .bit _ => some .bit
  | .inc _ => some .inc
  | .dec _ => some .dec
  | .inx => some .inx
  | .iny => some .iny
  | .dex => some .dex
  | .dey => some .dey
  | .asl _ => some .asl
  | .lsr _ => some .lsr
  | .rol _ => some .rol
  | .ror _ => some .ror
  | .jmp _ => some .jmp
  | .jmpInd _ => some .jmp
  | .jsr _ => some .jsr
  | .rts => some .rts
  | .rti => some .rti
  | .bpl _ => some .bpl
  | .bmi _ => some .bmi
  | .bvc _ => some .bvc
  | .bvs _ => some .bvs
  | .bcc _ => some .bcc
  | .bcs _ => some .bcs
  | .bne _ => some .bne
  | .beq _ => some .beq
  | .brk => some .brk
  | .nop => some .nop
  | .pha => some .pha
  | .pla => some .pla
  | .php => some .php
  | .plp => some .plp
  | .clc => some .clc
  | .sec => some .sec
  | .cli => some .cli
  | .sei => some .sei
  | .cld => some .cld
  | .sed => some .sed
  | .clv => some .clv
  | .lax _ => some .lax
  | .sax _ => some .sax
  | .slo _ => some .slo
  | .rla _ => some .rla
  | .sre _ => some .sre
  | .rra _ => some .rra
  | .dcp _ => some .dcp
  | .isb _ => some .isb
  | .nopUndoc _ _ => some .nopUndoc
  | .sbcUndoc _ => some .sbcUndoc
  | .undefined _ => none

/-- The operand form of an instruction (R145). -/
def Instr.mode : Instr → Mode
  | .lda o | .ldx o | .ldy o => o.mode
  | .adc o | .sbc o | .and o | .ora o | .eor o | .cmp o | .cpx o | .cpy o => o.mode
  | .sta m | .stx m | .sty m | .bit m | .inc m | .dec m => m.mode
  | .lax m | .sax m | .slo m | .rla m | .sre m | .rra m | .dcp m | .isb m => m.mode
  | .asl o | .lsr o | .rol o | .ror o => o.mode
  | .jmp _ | .jsr _ => .absolute
  | .jmpInd _ => .indirect
  | .bpl _ | .bmi _ | .bvc _ | .bvs _ | .bcc _ | .bcs _ | .bne _ | .beq _ => .relative
  | .nopUndoc _ o => o.mode
  | .sbcUndoc _ => .immediate
  | .tax | .tay | .txa | .tya | .tsx | .txs | .inx | .iny | .dex | .dey => .implied
  | .rts | .rti | .brk | .nop | .pha | .pla | .php | .plp => .implied
  | .clc | .sec | .cli | .sei | .cld | .sed | .clv => .implied
  | .undefined _ => .implied

end Sys2Proof
end

