-- ==== Sys2Proof/WellFormed.lean ====
section
/-! DEFINITION. Which instructions exist: an operand form must be one that the grids of
30_encoding.md R148 and R149 give the operation, and a carried code must be one of the codes of its
rule (R150, R360). Written from those grids and not from the Opcode Table of Decode.lean. -/

namespace Sys2Proof

/-- The columns of R148 and R149 in which an operation has a cell. -/
def Op.modes : Op → List Mode
  | .adc | .and | .cmp | .eor | .lda | .ora | .sbc =>
      [.immediate, .zeroPage, .zeroPageX, .absolute, .absoluteX, .absoluteY, .indirectX, .indirectY]
  | .asl | .lsr | .rol | .ror => [.accumulator, .zeroPage, .zeroPageX, .absolute, .absoluteX]
  | .bcc | .bcs | .beq | .bmi | .bne | .bpl | .bvc | .bvs => [.relative]
  | .bit => [.zeroPage, .absolute]
  | .cpx | .cpy => [.immediate, .zeroPage, .absolute]
  | .dec | .inc => [.zeroPage, .zeroPageX, .absolute, .absoluteX]
  | .jmp => [.absolute, .indirect]
  | .jsr => [.absolute]
  | .ldx => [.immediate, .zeroPage, .zeroPageY, .absolute, .absoluteY]
  | .ldy => [.immediate, .zeroPage, .zeroPageX, .absolute, .absoluteX]
  | .sta => [.zeroPage, .zeroPageX, .absolute, .absoluteX, .absoluteY, .indirectX, .indirectY]
  | .stx => [.zeroPage, .zeroPageY, .absolute]
  | .sty => [.zeroPage, .zeroPageX, .absolute]
  | .dcp | .isb | .rla | .rra | .slo | .sre =>
      [.zeroPage, .zeroPageX, .absolute, .absoluteX, .absoluteY, .indirectX, .indirectY]
  | .lax => [.zeroPage, .zeroPageY, .absolute, .absoluteY, .indirectX, .indirectY]
  | .sax => [.zeroPage, .zeroPageY, .absolute, .indirectX]
  | .nopUndoc => [.implied, .immediate, .zeroPage, .zeroPageX, .absolute, .absoluteX]
  | .sbcUndoc => [.immediate]
  | .tax | .tay | .txa | .tya | .tsx | .txs | .inx | .iny | .dex | .dey => [.implied]
  | .rts | .rti | .brk | .nop | .pha | .pla | .php | .plp => [.implied]
  | .clc | .sec | .cli | .sei | .cld | .sed | .clv => [.implied]

/-- The codes of the undocumented NOPs, by mode (R360). -/
def nopUndocCodes : Mode → List Byte
  | .implied   => [0x1A, 0x3A, 0x5A, 0x7A, 0xDA, 0xFA]
  | .immediate => [0x80]
  | .zeroPage  => [0x04, 0x44, 0x64]
  | .zeroPageX => [0x14, 0x34, 0x54, 0x74, 0xD4, 0xF4]
  | .absolute  => [0x0C]
  | .absoluteX => [0x1C, 0x3C, 0x5C, 0x7C, 0xDC, 0xFC]
  | _ => []

/-- The 29 codes with no table entry (R150). -/
def absentCodes : List Byte :=
  [0x02, 0x12, 0x22, 0x32, 0x42, 0x52, 0x62, 0x72, 0x92, 0xB2, 0xD2, 0xF2] ++
  [0x0B, 0x2B, 0x4B, 0x6B, 0x8B, 0xAB, 0xCB] ++
  [0x82, 0x89, 0xC2, 0xE2, 0x93, 0x9B, 0x9C, 0x9E, 0x9F, 0xBB]

/-- The operand form is one that the operation has (R148, R149). -/
def Instr.formExists (i : Instr) : Bool :=
  match i.op with
  | some op => op.modes.contains i.mode
  | none => true

/-- A code that an instruction carries is a code of its rule (R150, R360). -/
def Instr.codeExists : Instr → Bool
  | .nopUndoc c o => (nopUndocCodes o.mode).contains c
  | .undefined c  => absentCodes.contains c
  | _ => true

/-- A well-formed instruction: one that some byte sequence encodes. -/
def Instr.wellFormed (i : Instr) : Bool := i.formExists && i.codeExists

end Sys2Proof
end

