-- ==== Sys2Proof/Decode.lean ====
section
/-! DEFINITION. The decoder and the encoder (30_encoding.md R140 to R151): the Opcode Table as data, the
assembly of operand bytes, decoding that is total on any bytes, and encoding. -/

namespace Sys2Proof

/-! ## Operand assembly -/

/-- `hi ++ lo` (R14, R81): the 16-bit value of two bytes. -/
def addr16 (hi lo : Byte) : Addr := hi ++ lo

/-- The high byte `a[15:8]` of an address: its page (R14). -/
def highByte (a : Addr) : Byte := a.extractLsb' 8 8

/-- The low byte `a[7:0]` of an address (R14). -/
def lowByte (a : Addr) : Byte := a.extractLsb' 0 8

/-- `0x00 ++ b`: a zero-page address (R144). -/
def zext16 (b : Byte) : Addr := b.setWidth 16

/-- `sext_16(b)` (R14, R144). -/
def sext16 (b : Byte) : Addr := b.signExtend 16

/-! ## The Opcode Table -/

/-- An Opcode Table entry (R146): code, operation, mode, base cycles and the derived page-penalty bit (R192). Its
length in bytes is its mode's (R141 to R143). -/
structure Entry where
  code    : Byte
  op      : Op
  mode    : Mode
  cycles  : Nat
  penalty : Bool
  deriving DecidableEq, Repr

/-- Row 0x of the grid of R147. -/
def opcodeRow0 : List Entry :=
  [⟨0x00, .brk, .implied, 7, false⟩,
   ⟨0x01, .ora, .indirectX, 6, false⟩,
   ⟨0x03, .slo, .indirectX, 8, false⟩,
   ⟨0x04, .nopUndoc, .zeroPage, 3, false⟩,
   ⟨0x05, .ora, .zeroPage, 3, false⟩,
   ⟨0x06, .asl, .zeroPage, 5, false⟩,
   ⟨0x07, .slo, .zeroPage, 5, false⟩,
   ⟨0x08, .php, .implied, 3, false⟩,
   ⟨0x09, .ora, .immediate, 2, false⟩,
   ⟨0x0A, .asl, .accumulator, 2, false⟩,
   ⟨0x0C, .nopUndoc, .absolute, 4, false⟩,
   ⟨0x0D, .ora, .absolute, 4, false⟩,
   ⟨0x0E, .asl, .absolute, 6, false⟩,
   ⟨0x0F, .slo, .absolute, 6, false⟩]

/-- Row 1x of the grid of R147. -/
def opcodeRow1 : List Entry :=
  [⟨0x10, .bpl, .relative, 2, false⟩,
   ⟨0x11, .ora, .indirectY, 5, true⟩,
   ⟨0x13, .slo, .indirectY, 8, false⟩,
   ⟨0x14, .nopUndoc, .zeroPageX, 4, false⟩,
   ⟨0x15, .ora, .zeroPageX, 4, false⟩,
   ⟨0x16, .asl, .zeroPageX, 6, false⟩,
   ⟨0x17, .slo, .zeroPageX, 6, false⟩,
   ⟨0x18, .clc, .implied, 2, false⟩,
   ⟨0x19, .ora, .absoluteY, 4, true⟩,
   ⟨0x1A, .nopUndoc, .implied, 2, false⟩,
   ⟨0x1B, .slo, .absoluteY, 7, false⟩,
   ⟨0x1C, .nopUndoc, .absoluteX, 4, true⟩,
   ⟨0x1D, .ora, .absoluteX, 4, true⟩,
   ⟨0x1E, .asl, .absoluteX, 7, false⟩,
   ⟨0x1F, .slo, .absoluteX, 7, false⟩]

/-- Row 2x of the grid of R147. -/
def opcodeRow2 : List Entry :=
  [⟨0x20, .jsr, .absolute, 6, false⟩,
   ⟨0x21, .and, .indirectX, 6, false⟩,
   ⟨0x23, .rla, .indirectX, 8, false⟩,
   ⟨0x24, .bit, .zeroPage, 3, false⟩,
   ⟨0x25, .and, .zeroPage, 3, false⟩,
   ⟨0x26, .rol, .zeroPage, 5, false⟩,
   ⟨0x27, .rla, .zeroPage, 5, false⟩,
   ⟨0x28, .plp, .implied, 4, false⟩,
   ⟨0x29, .and, .immediate, 2, false⟩,
   ⟨0x2A, .rol, .accumulator, 2, false⟩,
   ⟨0x2C, .bit, .absolute, 4, false⟩,
   ⟨0x2D, .and, .absolute, 4, false⟩,
   ⟨0x2E, .rol, .absolute, 6, false⟩,
   ⟨0x2F, .rla, .absolute, 6, false⟩]

/-- Row 3x of the grid of R147. -/
def opcodeRow3 : List Entry :=
  [⟨0x30, .bmi, .relative, 2, false⟩,
   ⟨0x31, .and, .indirectY, 5, true⟩,
   ⟨0x33, .rla, .indirectY, 8, false⟩,
   ⟨0x34, .nopUndoc, .zeroPageX, 4, false⟩,
   ⟨0x35, .and, .zeroPageX, 4, false⟩,
   ⟨0x36, .rol, .zeroPageX, 6, false⟩,
   ⟨0x37, .rla, .zeroPageX, 6, false⟩,
   ⟨0x38, .sec, .implied, 2, false⟩,
   ⟨0x39, .and, .absoluteY, 4, true⟩,
   ⟨0x3A, .nopUndoc, .implied, 2, false⟩,
   ⟨0x3B, .rla, .absoluteY, 7, false⟩,
   ⟨0x3C, .nopUndoc, .absoluteX, 4, true⟩,
   ⟨0x3D, .and, .absoluteX, 4, true⟩,
   ⟨0x3E, .rol, .absoluteX, 7, false⟩,
   ⟨0x3F, .rla, .absoluteX, 7, false⟩]

/-- Row 4x of the grid of R147. -/
def opcodeRow4 : List Entry :=
  [⟨0x40, .rti, .implied, 6, false⟩,
   ⟨0x41, .eor, .indirectX, 6, false⟩,
   ⟨0x43, .sre, .indirectX, 8, false⟩,
   ⟨0x44, .nopUndoc, .zeroPage, 3, false⟩,
   ⟨0x45, .eor, .zeroPage, 3, false⟩,
   ⟨0x46, .lsr, .zeroPage, 5, false⟩,
   ⟨0x47, .sre, .zeroPage, 5, false⟩,
   ⟨0x48, .pha, .implied, 3, false⟩,
   ⟨0x49, .eor, .immediate, 2, false⟩,
   ⟨0x4A, .lsr, .accumulator, 2, false⟩,
   ⟨0x4C, .jmp, .absolute, 3, false⟩,
   ⟨0x4D, .eor, .absolute, 4, false⟩,
   ⟨0x4E, .lsr, .absolute, 6, false⟩,
   ⟨0x4F, .sre, .absolute, 6, false⟩]

/-- Row 5x of the grid of R147. -/
def opcodeRow5 : List Entry :=
  [⟨0x50, .bvc, .relative, 2, false⟩,
   ⟨0x51, .eor, .indirectY, 5, true⟩,
   ⟨0x53, .sre, .indirectY, 8, false⟩,
   ⟨0x54, .nopUndoc, .zeroPageX, 4, false⟩,
   ⟨0x55, .eor, .zeroPageX, 4, false⟩,
   ⟨0x56, .lsr, .zeroPageX, 6, false⟩,
   ⟨0x57, .sre, .zeroPageX, 6, false⟩,
   ⟨0x58, .cli, .implied, 2, false⟩,
   ⟨0x59, .eor, .absoluteY, 4, true⟩,
   ⟨0x5A, .nopUndoc, .implied, 2, false⟩,
   ⟨0x5B, .sre, .absoluteY, 7, false⟩,
   ⟨0x5C, .nopUndoc, .absoluteX, 4, true⟩,
   ⟨0x5D, .eor, .absoluteX, 4, true⟩,
   ⟨0x5E, .lsr, .absoluteX, 7, false⟩,
   ⟨0x5F, .sre, .absoluteX, 7, false⟩]

/-- Row 6x of the grid of R147. -/
def opcodeRow6 : List Entry :=
  [⟨0x60, .rts, .implied, 6, false⟩,
   ⟨0x61, .adc, .indirectX, 6, false⟩,
   ⟨0x63, .rra, .indirectX, 8, false⟩,
   ⟨0x64, .nopUndoc, .zeroPage, 3, false⟩,
   ⟨0x65, .adc, .zeroPage, 3, false⟩,
   ⟨0x66, .ror, .zeroPage, 5, false⟩,
   ⟨0x67, .rra, .zeroPage, 5, false⟩,
   ⟨0x68, .pla, .implied, 4, false⟩,
   ⟨0x69, .adc, .immediate, 2, false⟩,
   ⟨0x6A, .ror, .accumulator, 2, false⟩,
   ⟨0x6C, .jmp, .indirect, 5, false⟩,
   ⟨0x6D, .adc, .absolute, 4, false⟩,
   ⟨0x6E, .ror, .absolute, 6, false⟩,
   ⟨0x6F, .rra, .absolute, 6, false⟩]

/-- Row 7x of the grid of R147. -/
def opcodeRow7 : List Entry :=
  [⟨0x70, .bvs, .relative, 2, false⟩,
   ⟨0x71, .adc, .indirectY, 5, true⟩,
   ⟨0x73, .rra, .indirectY, 8, false⟩,
   ⟨0x74, .nopUndoc, .zeroPageX, 4, false⟩,
   ⟨0x75, .adc, .zeroPageX, 4, false⟩,
   ⟨0x76, .ror, .zeroPageX, 6, false⟩,
   ⟨0x77, .rra, .zeroPageX, 6, false⟩,
   ⟨0x78, .sei, .implied, 2, false⟩,
   ⟨0x79, .adc, .absoluteY, 4, true⟩,
   ⟨0x7A, .nopUndoc, .implied, 2, false⟩,
   ⟨0x7B, .rra, .absoluteY, 7, false⟩,
   ⟨0x7C, .nopUndoc, .absoluteX, 4, true⟩,
   ⟨0x7D, .adc, .absoluteX, 4, true⟩,
   ⟨0x7E, .ror, .absoluteX, 7, false⟩,
   ⟨0x7F, .rra, .absoluteX, 7, false⟩]

/-- Row 8x of the grid of R147. -/
def opcodeRow8 : List Entry :=
  [⟨0x80, .nopUndoc, .immediate, 2, false⟩,
   ⟨0x81, .sta, .indirectX, 6, false⟩,
   ⟨0x83, .sax, .indirectX, 6, false⟩,
   ⟨0x84, .sty, .zeroPage, 3, false⟩,
   ⟨0x85, .sta, .zeroPage, 3, false⟩,
   ⟨0x86, .stx, .zeroPage, 3, false⟩,
   ⟨0x87, .sax, .zeroPage, 3, false⟩,
   ⟨0x88, .dey, .implied, 2, false⟩,
   ⟨0x8A, .txa, .implied, 2, false⟩,
   ⟨0x8C, .sty, .absolute, 4, false⟩,
   ⟨0x8D, .sta, .absolute, 4, false⟩,
   ⟨0x8E, .stx, .absolute, 4, false⟩,
   ⟨0x8F, .sax, .absolute, 4, false⟩]

/-- Row 9x of the grid of R147. -/
def opcodeRow9 : List Entry :=
  [⟨0x90, .bcc, .relative, 2, false⟩,
   ⟨0x91, .sta, .indirectY, 6, false⟩,
   ⟨0x94, .sty, .zeroPageX, 4, false⟩,
   ⟨0x95, .sta, .zeroPageX, 4, false⟩,
   ⟨0x96, .stx, .zeroPageY, 4, false⟩,
   ⟨0x97, .sax, .zeroPageY, 4, false⟩,
   ⟨0x98, .tya, .implied, 2, false⟩,
   ⟨0x99, .sta, .absoluteY, 5, false⟩,
   ⟨0x9A, .txs, .implied, 2, false⟩,
   ⟨0x9D, .sta, .absoluteX, 5, false⟩]

/-- Row Ax of the grid of R147. -/
def opcodeRowA : List Entry :=
  [⟨0xA0, .ldy, .immediate, 2, false⟩,
   ⟨0xA1, .lda, .indirectX, 6, false⟩,
   ⟨0xA2, .ldx, .immediate, 2, false⟩,
   ⟨0xA3, .lax, .indirectX, 6, false⟩,
   ⟨0xA4, .ldy, .zeroPage, 3, false⟩,
   ⟨0xA5, .lda, .zeroPage, 3, false⟩,
   ⟨0xA6, .ldx, .zeroPage, 3, false⟩,
   ⟨0xA7, .lax, .zeroPage, 3, false⟩,
   ⟨0xA8, .tay, .implied, 2, false⟩,
   ⟨0xA9, .lda, .immediate, 2, false⟩,
   ⟨0xAA, .tax, .implied, 2, false⟩,
   ⟨0xAC, .ldy, .absolute, 4, false⟩,
   ⟨0xAD, .lda, .absolute, 4, false⟩,
   ⟨0xAE, .ldx, .absolute, 4, false⟩,
   ⟨0xAF, .lax, .absolute, 4, false⟩]

/-- Row Bx of the grid of R147. -/
def opcodeRowB : List Entry :=
  [⟨0xB0, .bcs, .relative, 2, false⟩,
   ⟨0xB1, .lda, .indirectY, 5, true⟩,
   ⟨0xB3, .lax, .indirectY, 5, true⟩,
   ⟨0xB4, .ldy, .zeroPageX, 4, false⟩,
   ⟨0xB5, .lda, .zeroPageX, 4, false⟩,
   ⟨0xB6, .ldx, .zeroPageY, 4, false⟩,
   ⟨0xB7, .lax, .zeroPageY, 4, false⟩,
   ⟨0xB8, .clv, .implied, 2, false⟩,
   ⟨0xB9, .lda, .absoluteY, 4, true⟩,
   ⟨0xBA, .tsx, .implied, 2, false⟩,
   ⟨0xBC, .ldy, .absoluteX, 4, true⟩,
   ⟨0xBD, .lda, .absoluteX, 4, true⟩,
   ⟨0xBE, .ldx, .absoluteY, 4, true⟩,
   ⟨0xBF, .lax, .absoluteY, 4, true⟩]

/-- Row Cx of the grid of R147. -/
def opcodeRowC : List Entry :=
  [⟨0xC0, .cpy, .immediate, 2, false⟩,
   ⟨0xC1, .cmp, .indirectX, 6, false⟩,
   ⟨0xC3, .dcp, .indirectX, 8, false⟩,
   ⟨0xC4, .cpy, .zeroPage, 3, false⟩,
   ⟨0xC5, .cmp, .zeroPage, 3, false⟩,
   ⟨0xC6, .dec, .zeroPage, 5, false⟩,
   ⟨0xC7, .dcp, .zeroPage, 5, false⟩,
   ⟨0xC8, .iny, .implied, 2, false⟩,
   ⟨0xC9, .cmp, .immediate, 2, false⟩,
   ⟨0xCA, .dex, .implied, 2, false⟩,
   ⟨0xCC, .cpy, .absolute, 4, false⟩,
   ⟨0xCD, .cmp, .absolute, 4, false⟩,
   ⟨0xCE, .dec, .absolute, 6, false⟩,
   ⟨0xCF, .dcp, .absolute, 6, false⟩]

/-- Row Dx of the grid of R147. -/
def opcodeRowD : List Entry :=
  [⟨0xD0, .bne, .relative, 2, false⟩,
   ⟨0xD1, .cmp, .indirectY, 5, true⟩,
   ⟨0xD3, .dcp, .indirectY, 8, false⟩,
   ⟨0xD4, .nopUndoc, .zeroPageX, 4, false⟩,
   ⟨0xD5, .cmp, .zeroPageX, 4, false⟩,
   ⟨0xD6, .dec, .zeroPageX, 6, false⟩,
   ⟨0xD7, .dcp, .zeroPageX, 6, false⟩,
   ⟨0xD8, .cld, .implied, 2, false⟩,
   ⟨0xD9, .cmp, .absoluteY, 4, true⟩,
   ⟨0xDA, .nopUndoc, .implied, 2, false⟩,
   ⟨0xDB, .dcp, .absoluteY, 7, false⟩,
   ⟨0xDC, .nopUndoc, .absoluteX, 4, true⟩,
   ⟨0xDD, .cmp, .absoluteX, 4, true⟩,
   ⟨0xDE, .dec, .absoluteX, 7, false⟩,
   ⟨0xDF, .dcp, .absoluteX, 7, false⟩]

/-- Row Ex of the grid of R147. -/
def opcodeRowE : List Entry :=
  [⟨0xE0, .cpx, .immediate, 2, false⟩,
   ⟨0xE1, .sbc, .indirectX, 6, false⟩,
   ⟨0xE3, .isb, .indirectX, 8, false⟩,
   ⟨0xE4, .cpx, .zeroPage, 3, false⟩,
   ⟨0xE5, .sbc, .zeroPage, 3, false⟩,
   ⟨0xE6, .inc, .zeroPage, 5, false⟩,
   ⟨0xE7, .isb, .zeroPage, 5, false⟩,
   ⟨0xE8, .inx, .implied, 2, false⟩,
   ⟨0xE9, .sbc, .immediate, 2, false⟩,
   ⟨0xEA, .nop, .implied, 2, false⟩,
   ⟨0xEB, .sbcUndoc, .immediate, 2, false⟩,
   ⟨0xEC, .cpx, .absolute, 4, false⟩,
   ⟨0xED, .sbc, .absolute, 4, false⟩,
   ⟨0xEE, .inc, .absolute, 6, false⟩,
   ⟨0xEF, .isb, .absolute, 6, false⟩]

/-- Row Fx of the grid of R147. -/
def opcodeRowF : List Entry :=
  [⟨0xF0, .beq, .relative, 2, false⟩,
   ⟨0xF1, .sbc, .indirectY, 5, true⟩,
   ⟨0xF3, .isb, .indirectY, 8, false⟩,
   ⟨0xF4, .nopUndoc, .zeroPageX, 4, false⟩,
   ⟨0xF5, .sbc, .zeroPageX, 4, false⟩,
   ⟨0xF6, .inc, .zeroPageX, 6, false⟩,
   ⟨0xF7, .isb, .zeroPageX, 6, false⟩,
   ⟨0xF8, .sed, .implied, 2, false⟩,
   ⟨0xF9, .sbc, .absoluteY, 4, true⟩,
   ⟨0xFA, .nopUndoc, .implied, 2, false⟩,
   ⟨0xFB, .isb, .absoluteY, 7, false⟩,
   ⟨0xFC, .nopUndoc, .absoluteX, 4, true⟩,
   ⟨0xFD, .sbc, .absoluteX, 4, true⟩,
   ⟨0xFE, .inc, .absoluteX, 7, false⟩,
   ⟨0xFF, .isb, .absoluteX, 7, false⟩]

/-- The Opcode Table: the 227 populated codes (R147), with the base cycles and the `+` marks of R148 and
R149. -/
def opcodeTable : List Entry :=
  opcodeRow0 ++ opcodeRow1 ++ opcodeRow2 ++ opcodeRow3 ++ opcodeRow4 ++ opcodeRow5 ++ opcodeRow6 ++ opcodeRow7 ++
  opcodeRow8 ++ opcodeRow9 ++ opcodeRowA ++ opcodeRowB ++ opcodeRowC ++ opcodeRowD ++ opcodeRowE ++ opcodeRowF

/-- "by exact byte match over 256 possible codes" (R146). -/
def lookup (code : Byte) : Option Entry := opcodeTable.find? (fun e => e.code == code)

/-- The entry of an operation in a mode; where several codes share both, the lowest. -/
def entryOf (op : Op) (m : Mode) : Option Entry := opcodeTable.find? (fun e => e.op == op && e.mode == m)

/-- The base cycles of an operation in a mode (R148, R149). -/
def baseCycles (op : Op) (m : Mode) : Nat := ((entryOf op m).map Entry.cycles).getD 0

/-- Whether an operation in a mode is "sensitive to page-crossing" (R192). -/
def pagePenalty (op : Op) (m : Mode) : Bool := ((entryOf op m).map Entry.penalty).getD false

/-! ## Decoding -/

/-- The memory operand that a mode makes of the operand bytes (R144, R145). -/
def memOperand : Mode → Byte → Byte → Option MemOperand
  | .zeroPage,  b1, _  => some (.zp b1)
  | .zeroPageX, b1, _  => some (.zpX b1)
  | .zeroPageY, b1, _  => some (.zpY b1)
  | .absolute,  b1, b2 => some (.abs (addr16 b2 b1))
  | .absoluteX, b1, b2 => some (.absX (addr16 b2 b1))
  | .absoluteY, b1, b2 => some (.absY (addr16 b2 b1))
  | .indirectX, b1, _  => some (.indX b1)
  | .indirectY, b1, _  => some (.indY b1)
  | _, _, _ => none

def sourceOperand : Mode → Byte → Byte → Option Source
  | .immediate, b1, _ => some (.imm b1)
  | m, b1, b2 => (memOperand m b1 b2).map .mem

def shiftOperand : Mode → Byte → Byte → Option ShiftOperand
  | .accumulator, _, _ => some .acc
  | m, b1, b2 => (memOperand m b1 b2).map .mem

def nopOperand : Mode → Byte → Byte → Option NopOperand
  | .implied, _, _ => some .implied
  | m, b1, b2 => (sourceOperand m b1 b2).map .read

/-- The instruction of an entry with operand bytes `b1` and `b2`; a byte that the mode does not use is
ignored. `none` for a mode that the operation does not have. -/
def Entry.assemble (e : Entry) (b1 b2 : Byte) : Option Instr :=
  match e.op with
  | .lda => (sourceOperand e.mode b1 b2).map .lda
  | .ldx => (sourceOperand e.mode b1 b2).map .ldx
  | .ldy => (sourceOperand e.mode b1 b2).map .ldy
  | .sta => (memOperand e.mode b1 b2).map .sta
  | .stx => (memOperand e.mode b1 b2).map .stx
  | .sty => (memOperand e.mode b1 b2).map .sty
  | .tax => some .tax
  | .tay => some .tay
  | .txa => some .txa
  | .tya => some .tya
  | .tsx => some .tsx
  | .txs => some .txs
  | .adc => (sourceOperand e.mode b1 b2).map .adc
  | .sbc => (sourceOperand e.mode b1 b2).map .sbc
  | .and => (sourceOperand e.mode b1 b2).map .and
  | .ora => (sourceOperand e.mode b1 b2).map .ora
  | .eor => (sourceOperand e.mode b1 b2).map .eor
  | .cmp => (sourceOperand e.mode b1 b2).map .cmp
  | .cpx => (sourceOperand e.mode b1 b2).map .cpx
  | .cpy => (sourceOperand e.mode b1 b2).map .cpy
  | .bit => (memOperand e.mode b1 b2).map .bit
  | .inc => (memOperand e.mode b1 b2).map .inc
  | .dec => (memOperand e.mode b1 b2).map .dec
  | .inx => some .inx
  | .iny => some .iny
  | .dex => some .dex
  | .dey => some .dey
  | .asl => (shiftOperand e.mode b1 b2).map .asl
  | .lsr => (shiftOperand e.mode b1 b2).map .lsr
  | .rol => (shiftOperand e.mode b1 b2).map .rol
  | .ror => (shiftOperand e.mode b1 b2).map .ror
  | .jmp =>
    match e.mode with
    | .absolute => some (.jmp (addr16 b2 b1))
    | .indirect => some (.jmpInd (addr16 b2 b1))
    | _ => none
  | .jsr => some (.jsr (addr16 b2 b1))
  | .rts => some .rts
  | .rti => some .rti
  | .bpl => some (.bpl b1)
  | .bmi => some (.bmi b1)
  | .bvc => some (.bvc b1)
  | .bvs => some (.bvs b1)
  | .bcc => some (.bcc b1)
  | .bcs => some (.bcs b1)
  | .bne => some (.bne b1)
  | .beq => some (.beq b1)
  | .brk => some .brk
  | .nop => some .nop
  | .pha => some .pha
  | .pla => some .pla
  | .php => some .php
  | .plp => some .plp
  | .clc => some .clc
  | .sec => some .sec
  | .cli => some .cli
  | .sei => some .sei
  | .cld => some .cld
  | .sed => some .sed
  | .clv => some .clv
  | .lax => (memOperand e.mode b1 b2).map .lax
  | .sax => (memOperand e.mode b1 b2).map .sax
  | .slo => (memOperand e.mode b1 b2).map .slo
  | .rla => (memOperand e.mode b1 b2).map .rla
  | .sre => (memOperand e.mode b1 b2).map .sre
  | .rra => (memOperand e.mode b1 b2).map .rra
  | .dcp => (memOperand e.mode b1 b2).map .dcp
  | .isb => (memOperand e.mode b1 b2).map .isb
  | .nopUndoc => (nopOperand e.mode b1 b2).map (.nopUndoc e.code)
  | .sbcUndoc => some (.sbcUndoc b1)

/-- The instruction of an opcode byte and its operand bytes (R140, R146). A code with no entry is the
table's UNDEFINED (R150; log 15). -/
def decodeBytes (code b1 b2 : Byte) : Instr :=
  ((lookup code).bind (fun e => e.assemble b1 b2)).getD (.undefined code)

/-- The length in bytes of the instruction that starts with `code`: "The opcode byte alone determines
the length" (R140). A code with no entry is 1 byte: no operand byte of it is read (R172). -/
def codeLength (code : Byte) : Nat := ((lookup code).map (fun e => e.mode.length)).getD 1

/-- Why a byte sequence is no instruction: every code decodes, so only a missing byte is refused. -/
inductive DecodeError where
  /-- No byte at all. -/
  | noOpcode
  /-- The opcode byte needs `length` bytes and fewer follow. -/
  | truncated (code : Byte) (length : Nat)
  deriving DecidableEq, Repr

/-- Decoding, total on any bytes: the instruction and the bytes after it, or a named refusal. -/
def decode : List Byte → Except DecodeError (Instr × List Byte)
  | [] => .error .noOpcode
  | code :: rest =>
    match codeLength code, rest with
    | 1, _ => .ok (decodeBytes code 0 0, rest)
    | 2, b1 :: rest' => .ok (decodeBytes code b1 0, rest')
    | 3, b1 :: b2 :: rest' => .ok (decodeBytes code b1 b2, rest')
    | n, _ => .error (.truncated code n)

/-! ## Encoding -/

/-- The operand bytes of a memory operand, low byte first (R142, R143). -/
def MemOperand.bytes : MemOperand → List Byte
  | .zp z | .zpX z | .zpY z | .indX z | .indY z => [z]
  | .abs a | .absX a | .absY a => [lowByte a, highByte a]

def Source.bytes : Source → List Byte
  | .imm v => [v]
  | .mem m => m.bytes

def ShiftOperand.bytes : ShiftOperand → List Byte
  | .acc   => []
  | .mem m => m.bytes

def NopOperand.bytes : NopOperand → List Byte
  | .implied => []
  | .read o  => o.bytes

/-- The operand bytes of an instruction (R141 to R145). -/
def Instr.operandBytes : Instr → List Byte
  | .lda o | .ldx o | .ldy o => o.bytes
  | .adc o | .sbc o | .and o | .ora o | .eor o | .cmp o | .cpx o | .cpy o => o.bytes
  | .sta m | .stx m | .sty m | .bit m | .inc m | .dec m => m.bytes
  | .lax m | .sax m | .slo m | .rla m | .sre m | .rra m | .dcp m | .isb m => m.bytes
  | .asl o | .lsr o | .rol o | .ror o => o.bytes
  | .jmp a | .jsr a | .jmpInd a => [lowByte a, highByte a]
  | .bpl d | .bmi d | .bvc d | .bvs d | .bcc d | .bcs d | .bne d | .beq d => [d]
  | .nopUndoc _ o => o.bytes
  | .sbcUndoc v => [v]
  | .tax | .tay | .txa | .tya | .tsx | .txs | .inx | .iny | .dex | .dey => []
  | .rts | .rti | .brk | .nop | .pha | .pla | .php | .plp => []
  | .clc | .sec | .cli | .sei | .cld | .sed | .clv => []
  | .undefined _ => []

/-- The opcode byte of an instruction: the one it carries, else its operation's code in its mode. An
instruction that is not well-formed has no code and gets the absent code 0x02 (log 20). -/
def Instr.code (i : Instr) : Byte :=
  match i with
  | .nopUndoc c _ => c
  | .undefined c => c
  | i => ((i.op.bind (fun op => entryOf op i.mode)).map Entry.code).getD 0x02

/-- The bytes of a well-formed instruction (R140 to R143). -/
def encode (i : Instr) : List Byte := i.code :: i.operandBytes

/-! ## The host's reading of a table word -/

/-- The byte `k` of a word of `nbits` bits numbered as spec/opcode_table.json numbers them: bits
`8*k+7` down to `8*k`, every bit above `nbits` 0. -/
def tableByte (nbits w k : Nat) : Byte := BitVec.ofNat 8 ((w % 2 ^ nbits) / 256 ^ k)

/-- The three bytes of a table word, the first at the lowest address: the longest instruction. -/
def tableBytes (nbits w : Nat) : List Byte := [tableByte nbits w 0, tableByte nbits w 1, tableByte nbits w 2]

/-- What the decoder reads from a table word. -/
def decodeTableWord (nbits w : Nat) : Option Instr :=
  match decode (tableBytes nbits w) with
  | .ok (i, _) => some i
  | .error _ => none

end Sys2Proof
end

