-- ==== Sys2Proof/Config.lean ====
section
/-! DEFINITION. What is fixed for one machine: the open parameters of 00_scope.md R13 and the free
values. The parameters are plain data, taken at construction (60_exceptions.md R427) and held in
`State.config`, so that a statement about every state holds for every choice of them. -/

namespace Sys2Proof

/-- `BUS_MODE`: what an illegal access does (R93, D14). -/
inductive BusMode where
  | strict
  | tolerant
  deriving DecidableEq, Repr

/-- Nametable mirroring, fixed by the cartridge (R68). -/
inductive Mirroring where
  | horizontal
  | vertical
  | fourScreen
  deriving DecidableEq, Repr

/-- The two legal lengths of PRG (R52, R96). -/
inductive PrgSize where
  | kb16
  | kb32
  deriving DecidableEq, Repr

/-! ### SPRITE_EVAL

A function of the PPU, taken as an argument (R13, R415). The parameters are plain data, so it is written as a
decision tree over tests of the PPU's state; Laws/SpriteEval.lean proves that every function of a PPU is one.
DESIGN CHOICE: log 9. -/

/-- A part of the PPU that a test reads as a number (R55 to R68). -/
inductive PpuField where
  | ctrl
  | mask
  | vblank
  | sprite0Hit
  | overflow
  | oamAddr
  | vramAddr
  | w
  | scrollX
  | scrollY
  | readBuf
  | scanline
  | dot
  | nmiPending
  | mirroring
  | chrRom
  | chr (i : Nat)
  | vram (i : Nat)
  | palette (i : Nat)
  | oam (i : Nat)
  deriving DecidableEq, Repr

/-- A test of the PPU: one bit of a field, or whether two fields hold the same number. -/
inductive PpuTest where
  | bit (f : PpuField) (k : Nat)
  | eq (f g : PpuField)
  deriving DecidableEq, Repr

/-- What `SPRITE_EVAL` does on leaving a scanline: whether it sets SPRITE0_HIT, which only the wrap clears, and
what it writes to OVERFLOW, if anything (R61). -/
structure SpriteAction where
  hit      : Bool
  overflow : Option Bool
  deriving DecidableEq, Repr

/-- `SPRITE_EVAL` (R13, R415). -/
inductive SpriteEval where
  | act (a : SpriteAction)
  | test (t : PpuTest) (yes no : SpriteEval)
  deriving DecidableEq, Repr

/-- The default (R415, D26, D27): SPRITE0_HIT is set if OAM[0] is the scanline being left and PPUMASK's
SHOW_SPRITES is 1, and OVERFLOW never. -/
def SpriteEval.standard : SpriteEval :=
  .test (.eq (.oam 0) .scanline)
    (.test (.bit .mask 4) (.act ⟨true, none⟩) (.act ⟨false, none⟩))
    (.act ⟨false, none⟩)

/-- The open parameters of R13 that the host passes to construction (R427). -/
structure Config where
  busMode        : BusMode
  undocEnabled   : Bool
  nmiEntryCycles : Nat
  oamDmaStall    : Nat
  spriteEval     : SpriteEval
  deriving DecidableEq, Repr

/-- The defaults that 92_eei_decisions.md decides: D14, D2, D9, D30, D26 and D27 (log 8). -/
def Config.default : Config where
  busMode        := .strict
  undocEnabled   := true
  nmiEntryCycles := 7
  oamDmaStall    := 0
  spriteEval     := .standard

/-- The value of the `n`th tolerant-mode illegal read: "An illegal read returns an unconstrained byte
(a draw)" (R93, D14). A free value: it has no body and nothing can be proved about it. DESIGN CHOICE: log 10. -/
opaque Config.freeByte : Nat → Byte

end Sys2Proof
end

