-- ==== Sys2Proof/Machine/State.lean ====
section
/-! DEFINITION. The machine's state as plain data (10_state.md), the reasons a step can stop, the
result of one bus access, and the state after reset. -/

namespace Sys2Proof.Machine

/-! ## Memory arrays -/

/-- A byte array: the listed cells, with addresses strictly rising and no cell equal to what an unlisted
address reads as. -/
abbrev Memory := List Host.Cell

/-- What an unlisted address reads as, in every array. For the arrays whose power-on contents are the
draw `POWER_ON_FILL` (R70, D13), and for the blank cartridge of `State.reset`, this is a DESIGN CHOICE
(log 2, log 3); `construct` takes the fill as an argument. -/
def Memory.blank : Byte := 0x00

/-- The canonical form of an array of `size` bytes. -/
abbrev Memory.wf (size : Nat) (m : Memory) : Prop :=
  m.Pairwise (fun c d => c.1 < d.1) ∧ ∀ c ∈ m, c.1 < size ∧ c.2 ≠ Memory.blank

/-! ## The PPU -/

/-- The PPU's state (R55 to R68). `chrRom` tells CHR-ROM from the writable fallback (R55). -/
structure Ppu where
  ctrl       : Byte
  mask       : Byte
  vblank     : Bool
  sprite0Hit : Bool
  overflow   : Bool
  oamAddr    : Byte
  vramAddr   : VAddr
  w          : Bool
  scrollX    : Byte
  scrollY    : Byte
  readBuf    : Byte
  scanline   : Nat
  dot        : Nat
  nmiPending : Bool
  mirroring  : Mirroring
  chrRom     : Bool
  chr        : Memory
  vram       : Memory
  palette    : Memory
  oam        : Memory
  deriving DecidableEq, Repr

/-! ## Run state and faults -/

/-- The kind of an access (R380). -/
inductive AccessKind where
  | read
  | write
  deriving DecidableEq, Repr

/-- A fault's kind with the info it records (R380). -/
inductive FaultInfo where
  | undefinedOpcode (opcode : Byte) (pc : Addr)
  | illegalAccess (addr : Addr) (kind : AccessKind)
  | unmodelled (ppuAddr : VAddr)
  | notReset
  deriving DecidableEq, Repr

/-- `RUN` (R71). -/
inductive Run where
  | needsReset
  | running
  | halted
  | faulted (info : FaultInfo)
  deriving DecidableEq, Repr

/-! ## The state -/

/-- The state of the whole block. The first group is the CPU's, the second the bus's (R50 to R54), then the
PPU, then the parameters of R13, which nothing writes after construction. `draws` is the model's own: the
number of free bytes drawn (log 10). The last two are the step report of R422 (log 7). -/
structure State where
  a             : Byte
  x             : Byte
  y             : Byte
  sp            : Byte
  p             : Byte
  pc            : Addr
  run           : Run
  ram           : Memory
  prgRam        : Memory
  prg           : Memory
  prgSize       : PrgSize
  cycles        : Nat
  strobe        : Bool
  cursor        : Nat
  buttons       : Byte
  ppu           : Ppu
  config        : Config
  draws         : Nat
  frameEvent    : Bool
  frameComplete : Bool
  deriving DecidableEq, Repr

/-- Why the machine stops. Each constructor carries the state that the fault leaves (R386): the partial
state at the faulting access, with RUN = Faulted. All are the spec's own faults, raised where the spec
raises them, so they are safe. -/
inductive Fault where
  /-- Raised by the meaning of an absent code (R381): no table entry for `opcode`, fetched at `pc`. Safe. -/
  | undefinedOpcode (opcode : Byte) (pc : Addr) (left : State)
  /-- Raised in strict bus mode by an illegal access (R93, R382). Safe. -/
  | illegalAccess (addr : Addr) (kind : AccessKind) (left : State)
  /-- Raised by a data-port access to four-screen nametable 2 or 3 (R105, R383). Safe. -/
  | unmodelled (ppuAddr : VAddr) (left : State)
  /-- Raised by a step before the first reset (R72, R384; log 6). Safe. -/
  | notReset (left : State)
  deriving DecidableEq, Repr

/-- Why the model gives an instruction no meaning. -/
inductive Refusal where
  /-- Raised by exec's own arm for an instruction without a meaning yet. Safe. -/
  | notModelled (mnemonic : String)
  deriving DecidableEq, Repr

/-- The outcome of a step or of an instruction. -/
abbrev StepOutcome := Host.Outcome State Fault Refusal

/-- The result of a bus access, or of a sequence of them: a value and the state after, or a fault. -/
inductive Access (α : Type) where
  | ok (v : α) (s : State)
  | fault (f : Fault)
  deriving DecidableEq, Repr

/-! ## Named updates -/

def State.setA (s : State) (v : Byte) : State := { s with a := v }
def State.setX (s : State) (v : Byte) : State := { s with x := v }
def State.setY (s : State) (v : Byte) : State := { s with y := v }
def State.setSp (s : State) (v : Byte) : State := { s with sp := v }
def State.setP (s : State) (v : Byte) : State := { s with p := v }
def State.setPc (s : State) (v : Addr) : State := { s with pc := v }
def State.setRun (s : State) (r : Run) : State := { s with run := r }
def State.setRam (s : State) (m : Memory) : State := { s with ram := m }
def State.setPrgRam (s : State) (m : Memory) : State := { s with prgRam := m }
def State.setPpu (s : State) (p : Ppu) : State := { s with ppu := p }
def State.setStrobe (s : State) (b : Bool) : State := { s with strobe := b }
def State.setCursor (s : State) (n : Nat) : State := { s with cursor := n }
def State.setDraws (s : State) (n : Nat) : State := { s with draws := n }
def State.setCycles (s : State) (n : Nat) : State := { s with cycles := n }
def State.setReport (s : State) (e c : Bool) : State := { s with frameEvent := e, frameComplete := c }

/-! ## Reset -/

/-- The PPU at construction (R70, D40), with the cartridge inputs and the fill of the blank cartridge:
CHR-RAM, horizontal mirroring, every array blank (log 2, log 3). -/
def Ppu.blank : Ppu where
  ctrl       := 0x00
  mask       := 0x00
  vblank     := false
  sprite0Hit := false
  overflow   := false
  oamAddr    := 0x00
  vramAddr   := 0
  w          := false
  scrollX    := 0x00
  scrollY    := 0x00
  readBuf    := 0x00
  scanline   := 0
  dot        := 0
  nmiPending := false
  mirroring  := .horizontal
  chrRom     := false
  chr        := []
  vram       := []
  palette    := []
  oam        := []

/-- The machine right after construction and `reset()` (R70, R450), with the default parameters and the
blank cartridge: 32 KB of PRG-ROM reading 0x00, so that the reset vector holds 0x0000 (log 3).
Laws/HostOps.lean proves that construction followed by `reset()` gives exactly this state. -/
def State.reset : State where
  a             := 0x00
  x             := 0x00
  y             := 0x00
  sp            := 0xFD
  p             := 0x24
  pc            := 0x0000
  run           := .running
  ram           := []
  prgRam        := []
  prg           := []
  prgSize       := .kb32
  cycles        := 0
  strobe        := false
  cursor        := 0
  buttons       := 0x00
  ppu           := Ppu.blank
  config        := Config.default
  draws         := 0
  frameEvent    := false
  frameComplete := false

end Sys2Proof.Machine
end

