-- ==== Sys2Proof/Machine/Ops.lean ====
section
/-! DEFINITION. The named operations over memory, the bus, the PPU, the stack and time, and the one trap
entry with its return. Every access of an instruction goes through `busRead` and `busWrite`. -/

namespace Sys2Proof.Machine

/-! ## Memory arrays -/

/-- The byte of an array at an index. -/
def Memory.read : Memory → Nat → Byte
  | [], _ => Memory.blank
  | (k, v) :: m, i => if k = i then v else Memory.read m i

/-- Put a cell before the first cell of a higher address. -/
def Memory.insert (i : Nat) (v : Byte) : Memory → Memory
  | [] => [(i, v)]
  | (k, w) :: m => if i < k then (i, v) :: (k, w) :: m else (k, w) :: Memory.insert i v m

/-- Store a byte, keeping the canonical form: the old cell goes, and a new one comes unless the byte is
what an unlisted address reads as. -/
def Memory.write (m : Memory) (i : Nat) (v : Byte) : Memory :=
  let rest := m.filter (fun c => c.1 ≠ i)
  if v = Memory.blank then rest else Memory.insert i v rest

/-! ## Sequencing accesses -/

/-- One access after another; the first that faults is the one reported (R387). -/
def Access.bind {α β : Type} (r : Access α) (k : α → State → Access β) : Access β :=
  match r with
  | .ok v s => k v s
  | .fault f => .fault f

/-- What the instruction does after its accesses. -/
def Access.andThen {α : Type} (r : Access α) (k : α → State → StepOutcome) : StepOutcome :=
  match r with
  | .ok v s => k v s
  | .fault f => .fault f

/-! ## Faults -/

/-- The fault's number in the spec's own list (R380). -/
def FaultInfo.number : FaultInfo → Nat
  | .undefinedOpcode _ _ => 1
  | .illegalAccess _ _   => 2
  | .unmodelled _        => 3
  | .notReset            => 4

/-- The fault of a kind that leaves a state as it is. -/
def faultWith (info : FaultInfo) (left : State) : Fault :=
  match info with
  | .undefinedOpcode op pc => .undefinedOpcode op pc left
  | .illegalAccess addr k  => .illegalAccess addr k left
  | .unmodelled p          => .unmodelled p left
  | .notReset              => .notReset left

/-- `raise Fault(kind, info)` (R17, R386): nothing is rolled back, no tick, and RUN becomes Faulted. -/
def raise (info : FaultInfo) (s : State) : Fault := faultWith info (s.setRun (.faulted info))

/-- The kind and info of a fault. -/
def Fault.info : Fault → FaultInfo
  | .undefinedOpcode op pc _ => .undefinedOpcode op pc
  | .illegalAccess addr k _  => .illegalAccess addr k
  | .unmodelled p _          => .unmodelled p
  | .notReset _              => .notReset

/-- The state that a fault leaves (R386). -/
def Fault.left : Fault → State
  | .undefinedOpcode _ _ s => s
  | .illegalAccess _ _ s   => s
  | .unmodelled _ s        => s
  | .notReset s            => s

/-- An illegal read (R93): a fault in strict mode; in tolerant mode an unconstrained byte, and nothing
changes but the model's count of drawn bytes (log 10). -/
def illegalRead (a : Addr) (s : State) : Access Byte :=
  match s.config.busMode with
  | .strict   => .fault (raise (.illegalAccess a .read) s)
  | .tolerant => .ok (Config.freeByte s.draws) (s.setDraws (s.draws + 1))

/-- An illegal write (R93): a fault in strict mode; in tolerant mode no memory changes. -/
def illegalWrite (a : Addr) (s : State) : Access Unit :=
  match s.config.busMode with
  | .strict   => .fault (raise (.illegalAccess a .write) s)
  | .tolerant => .ok () s

/-! ## The PPU address space -/

/-- Where a PPU address leads (R101). -/
inductive PpuCell where
  | chr (i : Nat)
  | vram (i : Nat)
  | palette (i : Nat)
  | missing
  deriving DecidableEq, Repr

/-- The VRAM mirroring function (R103, R105): the cell of a nametable address. -/
def nametableCell (mir : Mirroring) (p : VAddr) : PpuCell :=
  let i   := (p.toNat % 0x1000)
  let nt  := i / 0x400
  let off := i % 0x400
  match mir with
  | .horizontal => .vram (nt / 2 * 0x400 + off)
  | .vertical   => .vram (nt % 2 * 0x400 + off)
  | .fourScreen => if nt < 2 then .vram (nt * 0x400 + off) else .missing

/-- The palette index of an address, with the four redirected entries (R104). -/
def paletteIndex (p : VAddr) : Nat :=
  let k := p.toNat % 0x20
  if k = 0x10 ∨ k = 0x14 ∨ k = 0x18 ∨ k = 0x1C then k - 0x10 else k

/-- The decode of a PPU address (R101). -/
def ppuCell (mir : Mirroring) (p : VAddr) : PpuCell :=
  if p.toNat < 0x2000 then .chr p.toNat
  else if p.toNat < 0x3F00 then nametableCell mir p
  else .palette (paletteIndex p)

/-- `PpuRead(p)` (R408): the byte at a PPU address, or Unmodelled (R105, R383). -/
def ppuRead (p : VAddr) (s : State) : Access Byte :=
  match ppuCell s.ppu.mirroring p with
  | .chr i     => .ok (s.ppu.chr.read i) s
  | .vram i    => .ok (s.ppu.vram.read i) s
  | .palette i => .ok (s.ppu.palette.read i) s
  | .missing   => .fault (raise (.unmodelled p) s)

/-- `PpuWrite(p, v)` (R408) for a data-port write at CPU address `a`: the store, or an illegal write to
CHR-ROM (R102), or Unmodelled (R105). The illegal access's recorded address is the CPU's (log 11). -/
def ppuWrite (a : Addr) (p : VAddr) (v : Byte) (s : State) : Access Unit :=
  match ppuCell s.ppu.mirroring p with
  | .chr i =>
    if s.ppu.chrRom then illegalWrite a s
    else .ok () (s.setPpu { s.ppu with chr := s.ppu.chr.write i v })
  | .vram i    => .ok () (s.setPpu { s.ppu with vram := s.ppu.vram.write i v })
  | .palette i => .ok () (s.setPpu { s.ppu with palette := s.ppu.palette.write i v })
  | .missing   => .fault (raise (.unmodelled p) s)

/-! ## The PPU registers -/

/-- PPUCTRL's NMI_ENABLE, bit 7 (R59). -/
def Ppu.nmiEnable (p : Ppu) : Bool := p.ctrl.getLsbD 7

/-- PPUCTRL's INCREMENT, bit 2, as a step (R59, R407). -/
def Ppu.step (p : Ppu) : VAddr := if p.ctrl.getLsbD 2 then 32 else 1

/-- PPUMASK's SHOW_SPRITES, bit 4 (R60). -/
def Ppu.showSprites (p : Ppu) : Bool := p.mask.getLsbD 4

/-- `Increment()` (R407), modulo 0x4000. -/
def Ppu.increment (p : Ppu) : Ppu := { p with vramAddr := p.vramAddr + p.step }

/-- The byte a status read returns (R61, R403): bits 4:0 are 0. -/
def Ppu.status (p : Ppu) : Byte :=
  (if p.vblank then 0x80 else 0) ||| (if p.sprite0Hit then 0x40 else 0) ||| (if p.overflow then 0x20 else 0)

/-- What a status read leaves (R403). -/
def Ppu.afterStatusRead (p : Ppu) : Ppu := { p with vblank := false, w := false }

/-- A write to PPUCTRL (R404): the 0→1 edge of NMI_ENABLE while VBLANK is 1 raises the pending flag. -/
def Ppu.writeCtrl (p : Ppu) (v : Byte) : Ppu :=
  { p with ctrl := v, nmiPending := p.nmiPending || (!p.nmiEnable && v.getLsbD 7 && p.vblank) }

/-- A write to PPUSCROLL (R406). -/
def Ppu.writeScroll (p : Ppu) (v : Byte) : Ppu :=
  if p.w then { p with scrollY := v, w := false } else { p with scrollX := v, w := true }

/-- A write to PPUADDR (R406): the high byte first, masked to 14 bits. -/
def Ppu.writeAddr (p : Ppu) (v : Byte) : Ppu :=
  if p.w then { p with vramAddr := p.vramAddr.extractLsb' 8 6 ++ v, w := false }
  else { p with vramAddr := v.extractLsb' 0 6 ++ p.vramAddr.extractLsb' 0 8, w := true }

/-- A write to OAMDATA (R410), and one byte of an OAM DMA (R411). -/
def Ppu.writeOam (p : Ppu) (v : Byte) : Ppu :=
  { p with oam := p.oam.write p.oamAddr.toNat v, oamAddr := p.oamAddr + 1 }

/-- A read of the data port (R408): the increment comes before the buffer's reload. -/
def dataRead (s : State) : Access Byte :=
  let p  := s.ppu.vramAddr
  let s1 := s.setPpu s.ppu.increment
  if p.toNat < 0x3F00 then
    (ppuRead p s1).bind fun b s2 => .ok s.ppu.readBuf (s2.setPpu { s2.ppu with readBuf := b })
  else .ok (s.ppu.palette.read (paletteIndex p)) s1

/-- A write of the data port at CPU address `a` (R408): the increment comes after the store. -/
def dataWrite (a : Addr) (v : Byte) (s : State) : Access Unit :=
  (ppuWrite a s.ppu.vramAddr v s).bind fun _ s1 => .ok () (s1.setPpu s1.ppu.increment)

/-- A read of the PPU register window (R84, R85): the register is `0x2000 + (a & 7)`. -/
def ppuRegRead (a : Addr) (s : State) : Access Byte :=
  match a.toNat % 8 with
  | 2 => .ok s.ppu.status (s.setPpu s.ppu.afterStatusRead)
  | 4 => .ok (s.ppu.oam.read s.ppu.oamAddr.toNat) s
  | 7 => dataRead s
  | _ => illegalRead a s

/-- A write of the PPU register window (R84, R85). -/
def ppuRegWrite (a : Addr) (v : Byte) (s : State) : Access Unit :=
  match a.toNat % 8 with
  | 0 => .ok () (s.setPpu (s.ppu.writeCtrl v))
  | 1 => .ok () (s.setPpu { s.ppu with mask := v })
  | 2 => illegalWrite a s
  | 3 => .ok () (s.setPpu { s.ppu with oamAddr := v })
  | 4 => .ok () (s.setPpu (s.ppu.writeOam v))
  | 5 => .ok () (s.setPpu (s.ppu.writeScroll v))
  | 6 => .ok () (s.setPpu (s.ppu.writeAddr v))
  | _ => dataWrite a v s

/-! ## The input latch -/

/-- A read of 0x4016 (R426). -/
def latchRead (s : State) : Access Byte :=
  if 8 ≤ s.cursor then .ok 0x01 s
  else .ok (if s.buttons.getLsbD s.cursor then 0x01 else 0x00)
    (if s.strobe then s else s.setCursor (s.cursor + 1))

/-- A write of 0x4016 (R424): only bit 0 counts. -/
def latchWrite (v : Byte) (s : State) : State :=
  if v.getLsbD 0 then (s.setStrobe true).setCursor 0 else s.setStrobe false

/-! ## The bus -/

/-- The regions of the CPU address space (R82), with the index in the array behind one. -/
inductive BusCell where
  | ram (i : Nat)
  | ppuReg
  | unmapped
  | oamDma
  | inputLatch
  | prgRam (i : Nat)
  | prgRom (offset : Nat)
  deriving DecidableEq, Repr

/-- The bus decoder (R82, R83, R84, R90, R91). -/
def busCell (a : Addr) : BusCell :=
  if a.toNat < 0x2000 then .ram (a.toNat % 0x800)
  else if a.toNat < 0x4000 then .ppuReg
  else if a.toNat = 0x4014 then .oamDma
  else if a.toNat = 0x4016 then .inputLatch
  else if a.toNat < 0x6000 then .unmapped
  else if a.toNat < 0x8000 then .prgRam (a.toNat - 0x6000)
  else .prgRom (a.toNat - 0x8000)

/-- `len(PRG)` (R52). -/
def prgLength : PrgSize → Nat
  | .kb16 => 0x4000
  | .kb32 => 0x8000

/-- `MemRead(a, 1)` (R16, R82). -/
def busRead (a : Addr) (s : State) : Access Byte :=
  match busCell a with
  | .ram i      => .ok (s.ram.read i) s
  | .ppuReg     => ppuRegRead a s
  | .unmapped   => .ok 0x00 s
  | .oamDma     => illegalRead a s
  | .inputLatch => latchRead s
  | .prgRam i   => .ok (s.prgRam.read i) s
  | .prgRom off => .ok (s.prg.read (off % prgLength s.prgSize)) s

/-- OAM DMA's copy of `n` bytes from page `page`, from offset `i` up (R411). -/
def oamCopy (page : Byte) : Nat → Byte → State → Access Unit
  | 0, _, s => .ok () s
  | n + 1, i, s =>
    (busRead (addr16 page i) s).bind fun b s1 => oamCopy page n (i + 1) (s1.setPpu (s1.ppu.writeOam b))

/-- `MemWrite(a, 1, v)` (R16, R82). The result is what the write adds to the step's `extra` cycles:
OAM_DMA_STALL for an OAM DMA, else 0 (R411). -/
def busWrite (a : Addr) (v : Byte) (s : State) : Access Nat :=
  match busCell a with
  | .ram i      => .ok 0 (s.setRam (s.ram.write i v))
  | .ppuReg     => (ppuRegWrite a v s).bind fun _ s1 => .ok 0 s1
  | .unmapped   => .ok 0 s
  | .oamDma     => (oamCopy v 256 0 s).bind fun _ s1 => .ok s1.config.oamDmaStall s1
  | .inputLatch => .ok 0 (latchWrite v s)
  | .prgRam i   => .ok 0 (s.setPrgRam (s.prgRam.write i v))
  | .prgRom _   => (illegalWrite a s).bind fun _ s1 => .ok 0 s1

/-- `MemRead(a, 2)` (R16, R81): the low byte first, and `a + 1` wraps modulo 65536. -/
def busRead16 (a : Addr) (s : State) : Access Addr :=
  (busRead a s).bind fun lo s1 => (busRead (a + 1) s1).bind fun hi s2 => .ok (addr16 hi lo) s2

/-! ## The stack -/

/-- `0x0100 | SP` (R34, R110). -/
def stackAddr (sp : Byte) : Addr := addr16 0x01 sp

/-- `Push(v)` (R110). -/
def push (v : Byte) (s : State) : Access Unit :=
  (busWrite (stackAddr s.sp) v s).bind fun _ s1 => .ok () (s1.setSp (s1.sp - 1))

/-- `Pull()` (R110). -/
def pull (s : State) : Access Byte :=
  let s1 := s.setSp (s.sp + 1)
  busRead (stackAddr s1.sp) s1

/-- A 16-bit push, high byte first (R111). -/
def push16 (v : Addr) (s : State) : Access Unit :=
  (push (highByte v) s).bind fun _ s1 => push (lowByte v) s1

/-- A 16-bit pull, low byte first (R111). -/
def pull16 (s : State) : Access Addr :=
  (pull s).bind fun lo s1 => (pull s1).bind fun hi s2 => .ok (addr16 hi lo) s2

/-! ## Time -/

/-- A field as a number: a flag as 0 or 1, the mirroring by its place in R68's list. -/
def Ppu.field (p : Ppu) : PpuField → Nat
  | .ctrl       => p.ctrl.toNat
  | .mask       => p.mask.toNat
  | .vblank     => p.vblank.toNat
  | .sprite0Hit => p.sprite0Hit.toNat
  | .overflow   => p.overflow.toNat
  | .oamAddr    => p.oamAddr.toNat
  | .vramAddr   => p.vramAddr.toNat
  | .w          => p.w.toNat
  | .scrollX    => p.scrollX.toNat
  | .scrollY    => p.scrollY.toNat
  | .readBuf    => p.readBuf.toNat
  | .scanline   => p.scanline
  | .dot        => p.dot
  | .nmiPending => p.nmiPending.toNat
  | .mirroring  =>
    match p.mirroring with
    | .horizontal => 0
    | .vertical   => 1
    | .fourScreen => 2
  | .chrRom     => p.chrRom.toNat
  | .chr i      => (p.chr.read i).toNat
  | .vram i     => (p.vram.read i).toNat
  | .palette i  => (p.palette.read i).toNat
  | .oam i      => (p.oam.read i).toNat

/-- Whether a test of the PPU holds. -/
def Ppu.holds (p : Ppu) : PpuTest → Bool
  | .bit f k => (p.field f).testBit k
  | .eq f g  => p.field f == p.field g

/-- What the rule does for a PPU that is leaving its SCANLINE. -/
def Ppu.spriteAction (p : Ppu) : SpriteEval → SpriteAction
  | .act a         => a
  | .test t yes no => if p.holds t then p.spriteAction yes else p.spriteAction no

/-- `SPRITE_EVAL(SCANLINE)` (R415): it sets SPRITE0_HIT or leaves it, and sets, clears or leaves OVERFLOW (R61). -/
def spriteEval (rule : SpriteEval) (p : Ppu) : Ppu :=
  { p with
    sprite0Hit := p.sprite0Hit || (p.spriteAction rule).hit
    overflow   := (p.spriteAction rule).overflow.getD p.overflow }

/-- Entering a scanline (R414): vblank and the NMI at 241. -/
def Ppu.enterLine (p : Ppu) : Ppu :=
  if p.scanline = 241 then { p with vblank := true, nmiPending := p.nmiPending || p.nmiEnable } else p

/-- The wrap at 262 (R414), and whether it happened: "frame complete". -/
def Ppu.wrapFrame (p : Ppu) : Ppu × Bool :=
  if p.scanline = 262 then
    ({ p with scanline := 0, vblank := false, sprite0Hit := false, nmiPending := false }, true)
  else (p, false)

/-- One round of R414's loop: the end of a scanline. -/
def ppuLine (rule : SpriteEval) (p : Ppu) : Ppu × Bool :=
  let q := spriteEval rule p
  ({ q with dot := q.dot - 341, scanline := q.scanline + 1 } : Ppu).enterLine.wrapFrame

/-- R414's loop, for at most `n` rounds. -/
def ppuLines (rule : SpriteEval) : Nat → Ppu → Ppu × Bool
  | 0, p => (p, false)
  | n + 1, p =>
    if p.dot < 341 then (p, false)
    else
      let r := ppuLine rule p
      let t := ppuLines rule n r.1
      (t.1, r.2 || t.2)

/-- `PpuTick(n)` (R414): n dots. Each round takes 341 off DOT, so `DOT / 341` rounds are all. -/
def ppuTick (rule : SpriteEval) (n : Nat) (p : Ppu) : Ppu × Bool :=
  let q : Ppu := { p with dot := p.dot + n }
  ppuLines rule (q.dot / 341) q

/-- `Tick(n)` (R420): n CPU cycles are 3·n dots, and a rise of NMI_PENDING is the frame event. -/
def tick (n : Nat) (s : State) : State :=
  let r := ppuTick s.config.spriteEval (3 * n) s.ppu
  ((s.setCycles (s.cycles + n)).setPpu r.1).setReport
    (s.frameEvent || (!s.ppu.nmiPending && r.1.nmiPending)) (s.frameComplete || r.2)

/-! ## The status register -/

/-- The flags of P (R36). -/
inductive Flag where
  | c | z | i | d | b | u | v | n
  deriving DecidableEq, Repr

/-- The bit of a flag (R36). -/
def Flag.bit : Flag → Nat
  | .c => 0
  | .z => 1
  | .i => 2
  | .d => 3
  | .b => 4
  | .u => 5
  | .v => 6
  | .n => 7

/-- A flag of P. -/
def State.flag (s : State) (f : Flag) : Bool := s.p.getLsbD f.bit

/-- P with one flag written. -/
def withFlag (p : Byte) (f : Flag) (b : Bool) : Byte :=
  if b then p ||| BitVec.twoPow 8 f.bit else p &&& ~~~(BitVec.twoPow 8 f.bit)

/-- Write one flag of P. -/
def State.setFlag (s : State) (f : Flag) (b : Bool) : State := s.setP (withFlag s.p f b)

/-- `(p & ~0x10) | 0x20`: P as the NMI entry pushes it and as PLP and RTI load it (R41, R42, R393). -/
def withoutBreak (p : Byte) : Byte := (p &&& ~~~0x10) ||| 0x20

/-! ## The trap entry and its return -/

/-- `NmiEntry()` (R393), with NMI_PENDING already cleared by the poll (R392). -/
def nmiEntry (s : State) : StepOutcome :=
  (push16 s.pc s).andThen fun _ s1 =>
    (push (withoutBreak s1.p) s1).andThen fun _ s2 =>
      (busRead16 0xFFFA (tick s2.config.nmiEntryCycles (s2.setFlag .i true))).andThen fun v s3 =>
        .next (s3.setPc v)

/-- The pulls of RTI (R294): P with B cleared and U set, then PC; the result is the PC to resume at. -/
def pullFrame (s : State) : Access Addr :=
  (pull s).bind fun p s1 => pull16 (s1.setP (withoutBreak p))

end Sys2Proof.Machine
end

