-- ==== Sys2Proof/Machine/Operands.lean ====
section
/-! DEFINITION. The addressing-mode unit (40_execution_and_addressing.md R180 to R191), the access classes
of R174, and how an instruction ends (R175, R176). A meaning starts with PC = pc0 + 1 and with its operand
bytes already fetched (Machine/Fetch.lean; log 14). -/

namespace Sys2Proof.Machine

/-! ## Effective addresses -/

/-- What Resolve returns: the effective address and "whether resolving it crossed a memory page boundary"
(R173). -/
structure EffAddr where
  ea      : Addr
  crossed : Bool
  deriving DecidableEq, Repr

/-- `ZpRead16(z)` (R16, R185): the high byte's address wraps in page 0. -/
def zpRead16 (z : Byte) (s : State) : Access Addr :=
  (busRead (zext16 z) s).bind fun lo s1 =>
    (busRead (zext16 (z + 1)) s1).bind fun hi s2 => .ok (addr16 hi lo) s2

/-- A base indexed by a register: modulo 65536, with a crossing when the high byte changes (R186, R187, R190). -/
def indexed (base : Addr) (index : Byte) : EffAddr :=
  { ea := base + zext16 index, crossed := highByte (base + zext16 index) != highByte base }

/-- Resolve, for the modes that name a memory location (R181 to R190). -/
def resolve (m : MemOperand) (s : State) : Access EffAddr :=
  match m with
  | .zp z   => .ok ⟨zext16 z, false⟩ s
  | .zpX z  => .ok ⟨zext16 (z + s.x), false⟩ s
  | .zpY z  => .ok ⟨zext16 (z + s.y), false⟩ s
  | .abs a  => .ok ⟨a, false⟩ s
  | .absX a => .ok (indexed a s.x) s
  | .absY a => .ok (indexed a s.y) s
  | .indX z => (zpRead16 (z + s.x) s).bind fun a s1 => .ok ⟨a, false⟩ s1
  | .indY z => (zpRead16 z s).bind fun a s1 => .ok (indexed a s1.y) s1

/-- The high byte's address of JMP's pointer: the sum wraps in the pointer's page (R188). -/
def ptrHigh (ptr : Addr) : Addr := addr16 (highByte ptr) (lowByte ptr + 1)

/-- Resolve in mode Indirect, with the page-wrap bug (R188). -/
def resolveIndirect (ptr : Addr) (s : State) : Access Addr :=
  (busRead ptr s).bind fun lo s1 => (busRead (ptrHigh ptr) s1).bind fun hi s2 => .ok (addr16 hi lo) s2

/-! ## Ending an instruction -/

/-- The cycles an entry charges (R176): base, and 1 for a crossing where the entry has the penalty (R192). -/
def charge (op : Op) (m : Mode) (crossed : Bool) : Nat :=
  baseCycles op m + (if pagePenalty op m && crossed then 1 else 0)

/-- `pc0 + e.bytes`, from PC = pc0 + 1: "advance PC by entry.bytes - 1" (R175). -/
def State.pcAfter (s : State) (m : Mode) : Addr := s.pc + BitVec.ofNat 16 (m.length - 1)

/-- `PC <- next`, then the step's one Tick (R170). -/
def finish (next : Addr) (cycles : Nat) (s : State) : StepOutcome := .next (tick cycles (s.setPc next))

/-- The end of an instruction that is no control transfer. -/
def advance (op : Op) (m : Mode) (crossed : Bool) (extra : Nat) (s : State) : StepOutcome :=
  finish (s.pcAfter m) (charge op m crossed + extra) s

/-! ## Access classes (R174) -/

/-- The data byte of a read-class operand. In Immediate it is the operand byte, read at the fetch and not
again (R174, R180). -/
def readSource (o : Source) (s : State) : Access (Byte × Bool) :=
  match o with
  | .imm v => .ok (v, false) s
  | .mem m => (resolve m s).bind fun e s1 => (busRead e.ea s1).bind fun v s2 => .ok (v, e.crossed) s2

/-- Read class: one read, then the effect on the state. -/
def readClass (op : Op) (o : Source) (effect : Byte → State → State) (s : State) : StepOutcome :=
  (readSource o s).andThen fun r s1 => advance op o.mode r.2 0 (effect r.1 s1)

/-- Write class: one write and no read. -/
def writeClass (op : Op) (m : MemOperand) (value : State → Byte) (s : State) : StepOutcome :=
  (resolve m s).andThen fun e s1 =>
    (busWrite e.ea (value s1) s1).andThen fun extra s2 => advance op m.mode e.crossed extra s2

/-- Read-modify-write class: one read and then one write at the same address (R117, R174). `modify` gives
the byte to write, and the state with what the pseudocode writes before the store; `after` is what
follows the store, and takes the byte stored. -/
def rmwClass (op : Op) (m : MemOperand) (modify : Byte → State → Byte × State)
    (after : Byte → State → State) (s : State) : StepOutcome :=
  (resolve m s).andThen fun e s1 =>
    (busRead e.ea s1).andThen fun v s2 =>
      let r := modify v s2
      (busWrite e.ea r.1 r.2).andThen fun extra s3 =>
        advance op m.mode e.crossed extra (after r.1 s3)

/-- Implied operations without a bus access. -/
def impliedClass (op : Op) (effect : State → State) (s : State) : StepOutcome :=
  advance op .implied false 0 (effect s)

end Sys2Proof.Machine
end

