-- ==== Sys2Proof/Machine/Flags.lean ====
section
/-! DEFINITION. The flag computations and the ALU cores that share them (42_arithmetic_logic.md). -/

namespace Sys2Proof.Machine

/-- `ZN(v)` (R15, R38). -/
def State.setZN (s : State) (v : Byte) : State := (s.setFlag .z (v == 0x00)).setFlag .n (v.getLsbD 7)

/-- The carry as a number. -/
def State.carry (s : State) : Nat := if s.flag .c then 1 else 0

/-- `A + k + C` as an integer (R240). -/
def addSum (a k : Byte) (c : Nat) : Nat := a.toNat + k.toNat + c

/-- The signed overflow of R240: like-signed operands, and a result of the other sign. -/
def addOverflow (a k r : Byte) : Bool := a.getLsbD 7 == k.getLsbD 7 && r.getLsbD 7 != a.getLsbD 7

/-- `AddCore(k)` (R240), binary whatever D holds (R259). -/
def addCore (k : Byte) (s : State) : State :=
  let sum := addSum s.a k s.carry
  let r   := BitVec.ofNat 8 sum
  ((((s.setFlag .c (decide (0xFF < sum))).setFlag .v (addOverflow s.a k r)).setA r).setZN r)

/-- `CompareCore(reg, k)` (R245). -/
def compareCore (reg k : Byte) (s : State) : State :=
  ((s.setFlag .c (decide (k.toNat ≤ reg.toNat))).setFlag .z (reg == k)).setFlag .n ((reg - k).getLsbD 7)

/-- BIT's flags (R248). -/
def bitCore (m : Byte) (s : State) : State :=
  ((s.setFlag .z ((s.a &&& m) == 0x00)).setFlag .n (m.getLsbD 7)).setFlag .v (m.getLsbD 6)

/-- ASL's shift (R255): the shifted byte, and C with the bit shifted out. -/
def aslCore (v : Byte) (s : State) : Byte × State := (v <<< 1, s.setFlag .c (v.getLsbD 7))

/-- LSR's shift (R256). -/
def lsrCore (v : Byte) (s : State) : Byte × State := (v >>> 1, s.setFlag .c (v.getLsbD 0))

/-- ROL's rotate through C (R257). -/
def rolCore (v : Byte) (s : State) : Byte × State :=
  ((v <<< 1) ||| (if s.flag .c then 0x01 else 0x00), s.setFlag .c (v.getLsbD 7))

/-- ROR's rotate through C (R258). -/
def rorCore (v : Byte) (s : State) : Byte × State :=
  ((v >>> 1) ||| (if s.flag .c then 0x80 else 0x00), s.setFlag .c (v.getLsbD 0))

/-- INC's byte (R249). -/
def incCore (v : Byte) (s : State) : Byte × State := (v + 1, s)

/-- DEC's byte (R250). -/
def decCore (v : Byte) (s : State) : Byte × State := (v - 1, s)

/-- A shift or rotate of A or of memory (42_arithmetic_logic.md, section 6): the result, then `ZN`. -/
def shiftClass (op : Op) (o : ShiftOperand) (core : Byte → State → Byte × State) (s : State) : StepOutcome :=
  match o with
  | .acc =>
    let r := core s.a s
    advance op .accumulator false 0 ((r.2.setA r.1).setZN r.1)
  | .mem m => rmwClass op m core (fun r t => t.setZN r) s

end Sys2Proof.Machine
end

