-- ==== Sys2Proof/Machine/Arithmetic.lean ====
section
/-! DEFINITION. Arithmetic, logic, compare, increment and shift (42_arithmetic_logic.md). -/

namespace Sys2Proof.Machine

/-- ADC (R240). -/
def execAdc (o : Source) (s : State) : StepOutcome := readClass .adc o addCore s

/-- SBC (R241): `AddCore(~m)`. -/
def execSbc (o : Source) (s : State) : StepOutcome := readClass .sbc o (fun m t => addCore (~~~m) t) s

/-- AND (R242). -/
def execAnd (o : Source) (s : State) : StepOutcome :=
  readClass .and o (fun m t => (t.setA (t.a &&& m)).setZN (t.a &&& m)) s

/-- ORA (R243). -/
def execOra (o : Source) (s : State) : StepOutcome :=
  readClass .ora o (fun m t => (t.setA (t.a ||| m)).setZN (t.a ||| m)) s

/-- EOR (R244). -/
def execEor (o : Source) (s : State) : StepOutcome :=
  readClass .eor o (fun m t => (t.setA (t.a ^^^ m)).setZN (t.a ^^^ m)) s

/-- CMP (R245). -/
def execCmp (o : Source) (s : State) : StepOutcome := readClass .cmp o (fun m t => compareCore t.a m t) s

/-- CPX (R246). -/
def execCpx (o : Source) (s : State) : StepOutcome := readClass .cpx o (fun m t => compareCore t.x m t) s

/-- CPY (R247). -/
def execCpy (o : Source) (s : State) : StepOutcome := readClass .cpy o (fun m t => compareCore t.y m t) s

/-- BIT (R248). -/
def execBit (m : MemOperand) (s : State) : StepOutcome := readClass .bit (.mem m) bitCore s

/-- INC (R249). -/
def execInc (m : MemOperand) (s : State) : StepOutcome := rmwClass .inc m incCore (fun r t => t.setZN r) s

/-- DEC (R250). -/
def execDec (m : MemOperand) (s : State) : StepOutcome := rmwClass .dec m decCore (fun r t => t.setZN r) s

/-- INX (R251). -/
def execInx (s : State) : StepOutcome := impliedClass .inx (fun t => (t.setX (t.x + 1)).setZN (t.x + 1)) s

/-- INY (R252). -/
def execIny (s : State) : StepOutcome := impliedClass .iny (fun t => (t.setY (t.y + 1)).setZN (t.y + 1)) s

/-- DEX (R253). -/
def execDex (s : State) : StepOutcome := impliedClass .dex (fun t => (t.setX (t.x - 1)).setZN (t.x - 1)) s

/-- DEY (R254). -/
def execDey (s : State) : StepOutcome := impliedClass .dey (fun t => (t.setY (t.y - 1)).setZN (t.y - 1)) s

/-- ASL (R255). -/
def execAsl (o : ShiftOperand) (s : State) : StepOutcome := shiftClass .asl o aslCore s

/-- LSR (R256). -/
def execLsr (o : ShiftOperand) (s : State) : StepOutcome := shiftClass .lsr o lsrCore s

/-- ROL (R257). -/
def execRol (o : ShiftOperand) (s : State) : StepOutcome := shiftClass .rol o rolCore s

/-- ROR (R258). -/
def execRor (o : ShiftOperand) (s : State) : StepOutcome := shiftClass .ror o rorCore s

end Sys2Proof.Machine
end

