-- ==== Sys2Proof/Machine/Control.lean ====
section
/-! DEFINITION. Jumps, subroutines, branches, BRK, NOP and the codes with no entry
(43_control_transfer.md, 60_exceptions.md R381). -/

namespace Sys2Proof.Machine

/-- JMP, absolute (R290). -/
def execJmp (target : Addr) (s : State) : StepOutcome := finish target (charge .jmp .absolute false) s

/-- JMP, indirect (R291). -/
def execJmpInd (ptr : Addr) (s : State) : StepOutcome :=
  (resolveIndirect ptr s).andThen fun a s1 => finish a (charge .jmp .indirect false) s1

/-- JSR (R292): the pushed value is the address of JSR's last byte, pc0 + 2. -/
def execJsr (target : Addr) (s : State) : StepOutcome :=
  (push16 (s.pc + 1) s).andThen fun _ s1 => finish target (charge .jsr .absolute false) s1

/-- RTS (R293). -/
def execRts (s : State) : StepOutcome :=
  (pull16 s).andThen fun a s1 => finish (a + 1) (charge .rts .implied false) s1

/-- RTI (R294), the return from the NMI (R394). -/
def execRti (s : State) : StepOutcome :=
  (pullFrame s).andThen fun a s1 => finish a (charge .rti .implied false) s1

/-- A conditional branch with displacement `d` (R296). -/
def branch (op : Op) (cond : State → Bool) (d : Byte) (s : State) : StepOutcome :=
  let fall := s.pcAfter .relative
  let target := fall + sext16 d
  if cond s then
    finish target (charge op .relative false + (1 + if highByte target != highByte fall then 1 else 0)) s
  else finish fall (charge op .relative false) s

/-- BPL (R297). -/
def execBpl (d : Byte) (s : State) : StepOutcome := branch .bpl (fun t => !t.flag .n) d s

/-- BMI (R298). -/
def execBmi (d : Byte) (s : State) : StepOutcome := branch .bmi (fun t => t.flag .n) d s

/-- BVC (R299). -/
def execBvc (d : Byte) (s : State) : StepOutcome := branch .bvc (fun t => !t.flag .v) d s

/-- BVS (R300). -/
def execBvs (d : Byte) (s : State) : StepOutcome := branch .bvs (fun t => t.flag .v) d s

/-- BCC (R301). -/
def execBcc (d : Byte) (s : State) : StepOutcome := branch .bcc (fun t => !t.flag .c) d s

/-- BCS (R302). -/
def execBcs (d : Byte) (s : State) : StepOutcome := branch .bcs (fun t => t.flag .c) d s

/-- BNE (R303). -/
def execBne (d : Byte) (s : State) : StepOutcome := branch .bne (fun t => !t.flag .z) d s

/-- BEQ (R304). -/
def execBeq (d : Byte) (s : State) : StepOutcome := branch .beq (fun t => t.flag .z) d s

/-- BRK (R305): the step completes, then RUN is Halted. -/
def execBrk (s : State) : StepOutcome :=
  .next ((tick (charge .brk .implied false) (s.setPc (s.pcAfter .implied))).setRun .halted)

/-- NOP (R306). -/
def execNop (s : State) : StepOutcome := impliedClass .nop (fun t => t) s

/-- A code with no entry (R150, R172, R381): PC stays pc0 + 1 and no tick happens. -/
def execUndefined (code : Byte) (s : State) : StepOutcome :=
  .fault (raise (.undefinedOpcode code (s.pc - 1)) s)

end Sys2Proof.Machine
end

