-- ==== Sys2Proof/Machine/LoadStore.lean ====
section
/-! DEFINITION. Loads, stores and register transfers (41_load_store_transfer.md). -/

namespace Sys2Proof.Machine

/-- LDA (R210). -/
def execLda (o : Source) (s : State) : StepOutcome := readClass .lda o (fun v t => (t.setA v).setZN v) s

/-- LDX (R211). -/
def execLdx (o : Source) (s : State) : StepOutcome := readClass .ldx o (fun v t => (t.setX v).setZN v) s

/-- LDY (R212). -/
def execLdy (o : Source) (s : State) : StepOutcome := readClass .ldy o (fun v t => (t.setY v).setZN v) s

/-- STA (R213). -/
def execSta (m : MemOperand) (s : State) : StepOutcome := writeClass .sta m State.a s

/-- STX (R214). -/
def execStx (m : MemOperand) (s : State) : StepOutcome := writeClass .stx m State.x s

/-- STY (R215). -/
def execSty (m : MemOperand) (s : State) : StepOutcome := writeClass .sty m State.y s

/-- TAX (R216). -/
def execTax (s : State) : StepOutcome := impliedClass .tax (fun t => (t.setX t.a).setZN t.a) s

/-- TAY (R217). -/
def execTay (s : State) : StepOutcome := impliedClass .tay (fun t => (t.setY t.a).setZN t.a) s

/-- TXA (R218). -/
def execTxa (s : State) : StepOutcome := impliedClass .txa (fun t => (t.setA t.x).setZN t.x) s

/-- TYA (R219). -/
def execTya (s : State) : StepOutcome := impliedClass .tya (fun t => (t.setA t.y).setZN t.y) s

/-- TSX (R220). -/
def execTsx (s : State) : StepOutcome := impliedClass .tsx (fun t => (t.setX t.sp).setZN t.sp) s

/-- TXS (R221): the only transfer that leaves Z and N. -/
def execTxs (s : State) : StepOutcome := impliedClass .txs (fun t => t.setSp t.x) s

end Sys2Proof.Machine
end

