-- ==== Sys2Proof/Machine/Stack.lean ====
section
/-! DEFINITION. Stack and flag instructions (44_stack_and_flags.md). -/

namespace Sys2Proof.Machine

/-- PHA (R320). -/
def execPha (s : State) : StepOutcome :=
  (push s.a s).andThen fun _ s1 => advance .pha .implied false 0 s1

/-- PLA (R321). -/
def execPla (s : State) : StepOutcome :=
  (pull s).andThen fun v s1 => advance .pla .implied false 0 ((s1.setA v).setZN v)

/-- PHP (R322): the pushed copy has B and U set. -/
def execPhp (s : State) : StepOutcome :=
  (push (s.p ||| 0x30) s).andThen fun _ s1 => advance .php .implied false 0 s1

/-- PLP (R323). -/
def execPlp (s : State) : StepOutcome :=
  (pull s).andThen fun v s1 => advance .plp .implied false 0 (s1.setP (withoutBreak v))

/-- CLC (R330). -/
def execClc (s : State) : StepOutcome := impliedClass .clc (fun t => t.setFlag .c false) s

/-- SEC (R331). -/
def execSec (s : State) : StepOutcome := impliedClass .sec (fun t => t.setFlag .c true) s

/-- CLI (R332). -/
def execCli (s : State) : StepOutcome := impliedClass .cli (fun t => t.setFlag .i false) s

/-- SEI (R333). -/
def execSei (s : State) : StepOutcome := impliedClass .sei (fun t => t.setFlag .i true) s

/-- CLD (R334). -/
def execCld (s : State) : StepOutcome := impliedClass .cld (fun t => t.setFlag .d false) s

/-- SED (R335). -/
def execSed (s : State) : StepOutcome := impliedClass .sed (fun t => t.setFlag .d true) s

/-- CLV (R336). -/
def execClv (s : State) : StepOutcome := impliedClass .clv (fun t => t.setFlag .v false) s

end Sys2Proof.Machine
end

