-- ==== Sys2Proof/Machine/Undocumented.lean ====
section
/-! DEFINITION. The undocumented opcodes (45_undocumented.md): "the documented composite of two canonical
operations executed back to back" (R350). Whether their codes are populated is the fetch's business
(Machine/Fetch.lean; log 13). -/

namespace Sys2Proof.Machine

/-- LAX (R351): LDA then TAX. -/
def execLax (m : MemOperand) (s : State) : StepOutcome :=
  readClass .lax (.mem m) (fun v t => ((t.setA v).setX v).setZN v) s

/-- SAX (R352). -/
def execSax (m : MemOperand) (s : State) : StepOutcome := writeClass .sax m (fun t => t.a &&& t.x) s

/-- SLO (R353): ASL then ORA. -/
def execSlo (m : MemOperand) (s : State) : StepOutcome :=
  rmwClass .slo m aslCore (fun r t => (t.setA (t.a ||| r)).setZN (t.a ||| r)) s

/-- RLA (R354): ROL then AND. -/
def execRla (m : MemOperand) (s : State) : StepOutcome :=
  rmwClass .rla m rolCore (fun r t => (t.setA (t.a &&& r)).setZN (t.a &&& r)) s

/-- SRE (R355): LSR then EOR. -/
def execSre (m : MemOperand) (s : State) : StepOutcome :=
  rmwClass .sre m lsrCore (fun r t => (t.setA (t.a ^^^ r)).setZN (t.a ^^^ r)) s

/-- RRA (R356): ROR then ADC, whose carry-in is the rotate's carry-out. -/
def execRra (m : MemOperand) (s : State) : StepOutcome := rmwClass .rra m rorCore addCore s

/-- DCP (R357): DEC then CMP. -/
def execDcp (m : MemOperand) (s : State) : StepOutcome :=
  rmwClass .dcp m decCore (fun r t => compareCore t.a r t) s

/-- ISB (R358): INC then SBC. -/
def execIsb (m : MemOperand) (s : State) : StepOutcome :=
  rmwClass .isb m incCore (fun r t => addCore (~~~r) t) s

/-- The undocumented NOPs (R360): the memory forms make one read, whose value is discarded. The code tells
the copies apart and has no effect. -/
def execNopUndoc (_code : Byte) (o : NopOperand) (s : State) : StepOutcome :=
  match o with
  | .implied => impliedClass .nopUndoc (fun t => t) s
  | .read o  => readClass .nopUndoc o (fun _ t => t) s

/-- The undocumented SBC (R361), "identical to" R241 in Immediate. -/
def execSbcUndoc (v : Byte) (s : State) : StepOutcome :=
  readClass .sbcUndoc (.imm v) (fun m t => addCore (~~~m) t) s

end Sys2Proof.Machine
end

