-- ==== Sys2Proof/Machine/Fetch.lean ====
section
/-! DEFINITION. Fetching an instruction: the opcode byte, the table lookup and the operand bytes, each one
bus read (R171 to R173), and the host's placing of an instruction where the next step fetches. -/

namespace Sys2Proof.Machine

/-- Whether a code has an entry in the machine's table: the 76 undocumented codes only when
`UNDOC_ENABLED` (R147, R150, R350). -/
def populated (cfg : Config) (code : Byte) : Bool :=
  match lookup code with
  | some e => e.op.documented || cfg.undocEnabled
  | none => false

/-- How many operand bytes are read after `code`: none for an absent entry (R172). -/
def operandCount (cfg : Config) (code : Byte) : Nat := if populated cfg code then codeLength code - 1 else 0

/-- The instruction that a fetched opcode and its operand bytes are. -/
def fetchedInstr (cfg : Config) (code b1 b2 : Byte) : Instr :=
  if populated cfg code then decodeBytes code b1 b2 else .undefined code

/-- The operand bytes, read in order from PC = pc0 + 1 (R173). A byte that is not read is given as 0. -/
def fetchOperands (n : Nat) (s : State) : Access (Byte × Byte) :=
  match n with
  | 0 => .ok (0, 0) s
  | 1 => (busRead s.pc s).bind fun b1 s1 => .ok (b1, 0) s1
  | _ => (busRead s.pc s).bind fun b1 s1 => (busRead (s.pc + 1) s1).bind fun b2 s2 => .ok (b1, b2) s2

/-- The fetch (R170, R171): the opcode byte at PC, `PC <- pc0 + 1`, then the operand bytes. -/
def fetch (s : State) : Access Instr :=
  (busRead s.pc s).bind fun code s1 =>
    (fetchOperands (operandCount s1.config code) (s1.setPc (s.pc + 1))).bind fun b s2 =>
      .ok (fetchedInstr s2.config code b.1 b.2) s2

/-! ## Placing an instruction -/

/-- Whether a bus address has a byte that a program can stand in. -/
def holdsProgram (a : Addr) : Bool :=
  match busCell a with
  | .ram _ | .prgRam _ | .prgRom _ => true
  | _ => false

/-- Put a program byte behind a bus address, into PRG-ROM too: the host's loading, not a bus write. -/
def placeByte (a : Addr) (v : Byte) (s : State) : State :=
  match busCell a with
  | .ram i      => s.setRam (s.ram.write i v)
  | .prgRam i   => s.setPrgRam (s.prgRam.write i v)
  | .prgRom off => { s with prg := s.prg.write (off % prgLength s.prgSize) v }
  | _ => s

/-- Where the next instruction is placed: at PC where program bytes can stand in all three places, else at
0x0000 (log 16). -/
def placeAddr (pc : Addr) : Addr :=
  if holdsProgram pc && holdsProgram (pc + 1) && holdsProgram (pc + 2) then pc else 0x0000

/-- Put three bytes where the next step fetches, with the machine running, no NMI pending and the
undocumented codes as they are. -/
def placeBytes (b0 b1 b2 : Byte) (s : State) : State :=
  let a := placeAddr s.pc
  let s1 := placeByte (a + 2) b2 (placeByte (a + 1) b1 (placeByte a b0 s))
  ((s1.setPc a).setRun .running).setPpu { s1.ppu with nmiPending := false }

end Sys2Proof.Machine
end

