-- ==== Sys2Proof/Machine/Step.lean ====
section
/-! DEFINITION. One step (40_execution_and_addressing.md R170). -/

namespace Sys2Proof.Machine

/-- A running machine's step (R170, R392): the NMI entry when one is pending, else one instruction. -/
def runStep (s : State) : StepOutcome :=
  if s.ppu.nmiPending then nmiEntry (s.setPpu { s.ppu with nmiPending := false })
  else (fetch s).andThen exec

/-- `step()` (R170, R71). The step report is false at its start (R420). A machine that is not running
answers its state's outcome and changes nothing: Halted is a next state that is the same (log 17), and Faulted is
its fault again (R386). A step before the first reset raises NotReset, which leaves RUN Faulted as every fault
does (R170, R386; log 6). -/
def step (s : State) : Host.Outcome State Fault Refusal :=
  let s0 := s.setReport false false
  match s.run with
  | .running    => runStep s0
  | .halted     => .next s0
  | .faulted i  => .fault (faultWith i s0)
  | .needsReset => .fault (raise .notReset s0)

/-- The state with a table word stored where the next step fetches its instruction, so that the next step
runs exactly it (log 16). -/
def State.withFetchWord (s : State) (nbits w : Nat) : State :=
  placeBytes (tableByte nbits w 0) (tableByte nbits w 1) (tableByte nbits w 2) s

end Sys2Proof.Machine
end

