-- ==== Sys2Proof/Machine/HostOps.lean ====
section
/-! DEFINITION. What the host does between steps (00_scope.md R8, 60_exceptions.md R427): construct,
`reset()`, and set the buttons. `step()` is Machine/Step.lean. -/

namespace Sys2Proof.Machine

/-- What the cartridge supplies at construction (R96), as the external parser gives it. -/
structure Cartridge where
  prg       : List Byte
  chr       : Option (List Byte)
  mirroring : Mirroring
  mapper    : Nat
  deriving DecidableEq, Repr

/-- `POWER_ON_FILL` (R13, R70, D13): the contents of the arrays at construction, a draw that construction
takes as an argument. A byte that a list does not reach is 0x00. -/
structure PowerOnFill where
  ram     : List Byte
  prgRam  : List Byte
  chr     : List Byte
  vram    : List Byte
  palette : List Byte
  oam     : List Byte
  deriving DecidableEq, Repr

/-- The array that holds a list of bytes from index `i` on. -/
def Memory.ofBytes : Nat → List Byte → Memory
  | _, [] => []
  | i, b :: l => if b = Memory.blank then Memory.ofBytes (i + 1) l else (i, b) :: Memory.ofBytes (i + 1) l

/-- The legal lengths of PRG; any other is refused (R96, R385). -/
def prgSizeOf (n : Nat) : Option PrgSize :=
  if n = 0x4000 then some .kb16 else if n = 0x8000 then some .kb32 else none

/-- Whether CHR is "a byte array of 8192·k bytes, or none" (R96). -/
def chrLegal : Option (List Byte) → Bool
  | none => true
  | some l => decide (l.length ≠ 0 ∧ l.length % 0x2000 = 0)

/-- The PPU at construction (R70, D40). Only the first 8192 bytes of CHR-ROM are addressable (R96). -/
def constructPpu (c : Cartridge) (fill : PowerOnFill) : Ppu :=
  { Ppu.blank with
    mirroring := c.mirroring
    chrRom    := c.chr.isSome
    chr       := Memory.ofBytes 0 ((c.chr.getD fill.chr).take 0x2000)
    vram      := Memory.ofBytes 0 (fill.vram.take 0x800)
    palette   := Memory.ofBytes 0 (fill.palette.take 0x20)
    oam       := Memory.ofBytes 0 (fill.oam.take 0x100) }

/-- Construction (R70, R96, R385, R427, R451): refused for a mapper other than 0, a PRG size other than 16
or 32 KB, or a CHR that is no multiple of 8 KB. The CPU registers hold no value until `reset()`; the zeros here
are never read, since a step only faults (R72; log 4). -/
def construct (c : Cartridge) (fill : PowerOnFill) (cfg : Config) : Option State :=
  match prgSizeOf c.prg.length with
  | none => none
  | some size =>
    if c.mapper = 0 ∧ chrLegal c.chr = true then
      some { a := 0, x := 0, y := 0, sp := 0, p := 0, pc := 0, run := .needsReset,
             ram := Memory.ofBytes 0 (fill.ram.take 0x800),
             prgRam := Memory.ofBytes 0 (fill.prgRam.take 0x2000),
             prg := Memory.ofBytes 0 c.prg, prgSize := size, cycles := 0,
             strobe := false, cursor := 0, buttons := 0x00, ppu := constructPpu c fill,
             config := cfg, draws := 0, frameEvent := false, frameComplete := false }
    else none

/-- The registers as `reset()` sets them, before its vector read (R450). -/
def resetRegisters (s : State) : State := ((((s.setA 0x00).setX 0x00).setY 0x00).setSp 0xFD).setP 0x24

/-- `reset()` (R450): no tick, nothing but the CPU changes. The vector read is in PRG-ROM, so the fault arm is
never taken. -/
def hostReset (s : State) : State :=
  match busRead16 0xFFFC (resetRegisters s) with
  | .ok v t  => (t.setPc v).setRun .running
  | .fault f => f.left

/-- The host sets BUTTONS (R425). -/
def setButtons (mask : Byte) (s : State) : State := { s with buttons := mask }

/-- The cartridge of `State.reset` (log 3): 32 KB of PRG-ROM reading blank, no CHR-ROM, horizontal. -/
def blankCartridge : Cartridge :=
  { prg := List.replicate 0x8000 Memory.blank, chr := none, mirroring := .horizontal, mapper := 0 }

/-- The fill of `State.reset` (log 2): no byte drawn but the blank one. -/
def blankFill : PowerOnFill := { ram := [], prgRam := [], chr := [], vram := [], palette := [], oam := [] }

end Sys2Proof.Machine
end

