-- ==== Sys2Proof/Safety.lean ====
section
/-! DEFINITION. The terms that the claims use: a safe run, the bytes of memory, what a store stores to, the
flag bits and cycle counts as the spec's tables give them, the PPU's position in the frame, and the
invariant. -/

namespace Sys2Proof.Machine

/-! ## Safe runs -/

/-- The next state of an outcome, if it is one. -/
def nextState : StepOutcome → Option State
  | .next t => some t
  | _ => none

/-- The fault of an outcome, if it is one. -/
def faultOf : StepOutcome → Option Fault
  | .fault f => some f
  | _ => none

/-- A run of `n` steps that meets no fault: "A faulted state is never a good end of a run" (R10). A halted state
is the end of a run, and stays. -/
def SafeFor : Nat → State → Prop
  | 0, _ => True
  | n + 1, s => ∃ t, step s = .next t ∧ SafeFor n t

/-! ## The bytes of memory -/

/-- The arrays that hold bytes (R50 to R58). -/
inductive Space where
  | ram
  | prgRam
  | prg
  | chr
  | vram
  | palette
  | oam
  deriving DecidableEq, Repr

/-- One byte of one array. -/
def State.byteAt (s : State) (r : Space) (k : Nat) : Byte :=
  match r with
  | .ram     => s.ram.read k
  | .prgRam  => s.prgRam.read k
  | .prg     => s.prg.read k
  | .chr     => s.ppu.chr.read k
  | .vram    => s.ppu.vram.read k
  | .palette => s.ppu.palette.read k
  | .oam     => s.ppu.oam.read k

/-- Whether a bus write at `a` in state `s` stores to byte `k` of array `r`, by the decode that the write
itself uses. An OAM DMA stores to all of OAM (R411). -/
def storesTo (a : Addr) (s : State) (r : Space) (k : Nat) : Bool :=
  match busCell a with
  | .ram i    => r == .ram && k == i
  | .prgRam i => r == .prgRam && k == i
  | .oamDma   => r == .oam && decide (k < 0x100)
  | .ppuReg   =>
    match a.toNat % 8 with
    | 4 => r == .oam && k == s.ppu.oamAddr.toNat
    | 7 =>
      match ppuCell s.ppu.mirroring s.ppu.vramAddr with
      | .chr i     => !s.ppu.chrRom && (r == .chr && k == i)
      | .vram i    => r == .vram && k == i
      | .palette i => r == .palette && k == i
      | .missing   => false
    | _ => false
  | _ => false

/-- The RAM index of the stack byte that SP designates, `0x0100 | SP` (R34). -/
def stackIndex (sp : Byte) : Nat := 0x100 + sp.toNat

/-! ## Flag bits, by the layout of R36 -/

/-- P with Z and N from a result byte and the other bits as they are (R38). -/
def znBits (p v : Byte) : Byte := (p &&& 0x7D) ||| (if v = 0x00 then 0x02 else 0x00) ||| (v &&& 0x80)

/-- P with C written (R37). -/
def cBits (p : Byte) (c : Bool) : Byte := (p &&& 0xFE) ||| (if c then 0x01 else 0x00)

/-- P with C and V written (R37, R43). -/
def cvBits (p : Byte) (c v : Bool) : Byte :=
  (p &&& 0xBE) ||| (if c then 0x01 else 0x00) ||| (if v then 0x40 else 0x00)

/-- The carry-in, C as a number. -/
def carryIn (p : Byte) : Nat := p.toNat % 2

/-- The sum byte of ADC (R240). -/
def addByte (a k : Byte) (c : Nat) : Byte := BitVec.ofNat 8 (a.toNat + k.toNat + c)

/-- P after `AddCore(k)` (R240): C from the 9-bit sum, V from the signs, Z and N from the sum byte. -/
def addBits (p a k : Byte) : Byte :=
  let r := addByte a k (carryIn p)
  znBits (cvBits p (decide (0xFF < a.toNat + k.toNat + carryIn p)) (a.msb == k.msb && r.msb != a.msb)) r

/-- P after a compare of `reg` with `k` (R245): C, Z and N. -/
def compareBits (p reg k : Byte) : Byte :=
  (p &&& 0x7C) ||| (if k ≤ reg then 0x01 else 0x00) ||| (if reg = k then 0x02 else 0x00) ||| ((reg - k) &&& 0x80)

/-- P after BIT (R248): Z from the AND, N and V the memory byte's bits 7 and 6. -/
def bitBits (p a m : Byte) : Byte := (p &&& 0x3D) ||| (if a &&& m = 0x00 then 0x02 else 0x00) ||| (m &&& 0xC0)

/-! ## Cycles, by the grids of R148 and R149 -/

/-- A read-class operand's cycles, with the crossing penalty (R148, R192). -/
def readCycles (o : Source) (crossed : Bool) : Nat :=
  match o with
  | .imm _ => 2
  | .mem (.zp _) => 3
  | .mem (.zpX _) | .mem (.zpY _) => 4
  | .mem (.abs _) => 4
  | .mem (.absX _) | .mem (.absY _) => if crossed then 5 else 4
  | .mem (.indX _) => 6
  | .mem (.indY _) => if crossed then 6 else 5

/-- A store's cycles: no penalty (R148, R192). -/
def storeCycles : MemOperand → Nat
  | .zp _ => 3
  | .zpX _ | .zpY _ | .abs _ => 4
  | .absX _ | .absY _ => 5
  | .indX _ | .indY _ => 6

/-- A read-modify-write's cycles: no penalty (R148, R149, R192). -/
def rmwCycles : MemOperand → Nat
  | .zp _ => 5
  | .zpX _ | .zpY _ | .abs _ => 6
  | .absX _ | .absY _ => 7
  | .indX _ | .indY _ => 8

end Sys2Proof.Machine

namespace Sys2Proof
open Machine

/-! ## What each instruction may write, by R31 to R34 and R37 to R43 -/

/-- The instructions that write A (R31). -/
def Instr.writesA : Instr → Bool
  | .lda _ | .adc _ | .sbc _ | .and _ | .ora _ | .eor _ | .txa | .tya | .pla => true
  | .asl .acc | .lsr .acc | .rol .acc | .ror .acc => true
  | .lax _ | .slo _ | .rla _ | .sre _ | .rra _ | .isb _ | .sbcUndoc _ => true
  | _ => false

/-- The instructions that write X (R32). -/
def Instr.writesX : Instr → Bool
  | .ldx _ | .tax | .tsx | .inx | .dex | .lax _ => true
  | _ => false

/-- The instructions that write Y (R33). -/
def Instr.writesY : Instr → Bool
  | .ldy _ | .tay | .iny | .dey => true
  | _ => false

/-- The instructions that write SP (R34). -/
def Instr.writesSp : Instr → Bool
  | .txs | .pha | .pla | .php | .plp | .jsr _ | .rts | .rti => true
  | _ => false

/-- The instructions that write Z and N (R38). -/
def Instr.writesZN : Instr → Bool
  | .lda _ | .ldx _ | .ldy _ | .tax | .tay | .txa | .tya | .tsx => true
  | .adc _ | .sbc _ | .and _ | .ora _ | .eor _ | .cmp _ | .cpx _ | .cpy _ | .bit _ => true
  | .inc _ | .dec _ | .inx | .iny | .dex | .dey | .asl _ | .lsr _ | .rol _ | .ror _ => true
  | .pla | .plp | .rti => true
  | .lax _ | .slo _ | .rla _ | .sre _ | .rra _ | .dcp _ | .isb _ | .sbcUndoc _ => true
  | _ => false

/-- The instructions that write a flag (R37 to R43). -/
def Instr.writesFlag (i : Instr) : Flag → Bool
  | .c =>
    match i with
    | .adc _ | .sbc _ | .cmp _ | .cpx _ | .cpy _ | .asl _ | .lsr _ | .rol _ | .ror _ | .clc | .sec => true
    | .plp | .rti | .slo _ | .rla _ | .sre _ | .rra _ | .dcp _ | .isb _ | .sbcUndoc _ => true
    | _ => false
  | .z | .n => i.writesZN
  | .i =>
    match i with
    | .sei | .cli | .plp | .rti => true
    | _ => false
  | .d =>
    match i with
    | .sed | .cld | .plp | .rti => true
    | _ => false
  | .v =>
    match i with
    | .adc _ | .sbc _ | .bit _ | .clv | .plp | .rti | .rra _ | .isb _ | .sbcUndoc _ => true
    | _ => false
  | .b | .u =>
    match i with
    | .plp | .rti => true
    | _ => false

/-- The instructions that store to memory, the stack pushes among them (R110, R174). -/
def Instr.stores : Instr → Bool
  | .sta _ | .stx _ | .sty _ | .sax _ | .inc _ | .dec _ => true
  | .asl (.mem _) | .lsr (.mem _) | .rol (.mem _) | .ror (.mem _) => true
  | .slo _ | .rla _ | .sre _ | .rra _ | .dcp _ | .isb _ => true
  | .pha | .php | .jsr _ => true
  | _ => false

/-- The instructions that access a memory operand or a pointer, where a device may stand (R86, R174). -/
def Instr.accessesData : Instr → Bool
  | .lda (.mem _) | .ldx (.mem _) | .ldy (.mem _) | .adc (.mem _) | .sbc (.mem _) | .and (.mem _) => true
  | .ora (.mem _) | .eor (.mem _) | .cmp (.mem _) | .cpx (.mem _) | .cpy (.mem _) | .bit _ => true
  | .sta _ | .stx _ | .sty _ | .sax _ | .inc _ | .dec _ | .lax _ | .jmpInd _ => true
  | .asl (.mem _) | .lsr (.mem _) | .rol (.mem _) | .ror (.mem _) => true
  | .slo _ | .rla _ | .sre _ | .rra _ | .dcp _ | .isb _ | .nopUndoc _ (.read (.mem _)) => true
  | _ => false

end Sys2Proof

namespace Sys2Proof.Machine

/-! ## The PPU's place in the frame -/

/-- The dots in a frame, 262 lines of 341 (R413). -/
def frameDots : Nat := 89342

/-- The dot of the frame that the PPU is at. -/
def Ppu.position (p : Ppu) : Nat := 341 * p.scanline + p.dot

/-- SCANLINE and DOT are in range (R66). -/
def Ppu.InFrame (p : Ppu) : Prop := p.scanline < 262 ∧ p.dot < 341

/-- Two PPUs that differ at most in what a Tick moves: the status flags, the position and the pending NMI (R413
to R415). -/
structure Ppu.SameData (p q : Ppu) : Prop where
  ctrl      : q.ctrl = p.ctrl
  mask      : q.mask = p.mask
  oamAddr   : q.oamAddr = p.oamAddr
  vramAddr  : q.vramAddr = p.vramAddr
  w         : q.w = p.w
  scrollX   : q.scrollX = p.scrollX
  scrollY   : q.scrollY = p.scrollY
  readBuf   : q.readBuf = p.readBuf
  mirroring : q.mirroring = p.mirroring
  chrRom    : q.chrRom = p.chrRom
  chr       : q.chr = p.chr
  vram      : q.vram = p.vram
  palette   : q.palette = p.palette
  oam       : q.oam = p.oam

/-! ## The invariant -/

/-- What every step keeps: every array is canonical and inside its size (R50 to R58); SCANLINE and DOT are in
range (R66); VBLANK and a pending NMI only in lines 241 to 261 (R413, R414); CURSOR at most 8, and 0 while
STROBE is 1 (R54, R426); B is 0 and U is 1 in P (R41, R42, R44). -/
structure Inv (s : State) : Prop where
  ram     : s.ram.wf 0x800
  prgRam  : s.prgRam.wf 0x2000
  prg     : s.prg.wf (prgLength s.prgSize)
  chr     : s.ppu.chr.wf 0x2000
  vram    : s.ppu.vram.wf 0x800
  palette : s.ppu.palette.wf 0x20
  oam     : s.ppu.oam.wf 0x100
  inFrame : s.ppu.InFrame
  vblank  : s.ppu.vblank = true → 241 ≤ s.ppu.scanline
  nmi     : s.ppu.nmiPending = true → 241 ≤ s.ppu.scanline
  cursor  : s.cursor ≤ 8
  strobe  : s.strobe = true → s.cursor = 0
  breakB  : s.flag .b = false
  unusedU : s.flag .u = true

/-- What nothing writes after construction but the host (R52, R54, R68, R13). -/
structure SameFixed (s t : State) : Prop where
  prg       : t.prg = s.prg
  prgSize   : t.prgSize = s.prgSize
  config    : t.config = s.config
  mirroring : t.ppu.mirroring = s.ppu.mirroring
  chrRom    : t.ppu.chrRom = s.ppu.chrRom
  chr       : s.ppu.chrRom = true → t.ppu.chr = s.ppu.chr
  buttons   : t.buttons = s.buttons

/-- The state of an outcome: the next state, or the state that a fault leaves (R386). -/
def Leaves (o : StepOutcome) (t : State) : Prop := o = .next t ∨ ∃ f, o = .fault f ∧ f.left = t

end Sys2Proof.Machine
end

