-- ==== Sys2Proof/Certificates/Slice0/Obligations.lean ====
section
/-! DEFINITION. The statements for the provers. `s0` names a state with its step report cleared, as a step
clears it at its start (R420); a meaning starts with PC = pc0 + 1 (log 14). -/

open Sys2Proof Sys2Proof.Machine

/-! ## Encoding (30_encoding.md) -/

/-- Decoding the bytes of any well-formed instruction gives it back, and leaves the bytes after it (R140 to
R149). -/
def Obligations.DecodeOfEncode : Prop :=
  ∀ (i : Instr) (rest : List Byte), i.wellFormed = true → decode (encode i ++ rest) = .ok (i, rest)

/-- Whatever decodes is well-formed, and its encoding is the bytes it was read from: no byte has a second
meaning (R140 to R151). -/
def Obligations.EncodeOfDecode : Prop :=
  ∀ (bytes : List Byte) (i : Instr) (rest : List Byte), decode bytes = .ok (i, rest) →
    i.wellFormed = true ∧ encode i ++ rest = bytes

/-- Words written out from the grid of R147 and the formats F1 to F3 (R141 to R144). -/
def Obligations.SpecWordsDecode : Prop :=
  decode [0xA9, 0x05] = .ok (.lda (.imm 0x05), []) ∧
  decode [0x8D, 0x00, 0x02] = .ok (.sta (.abs 0x0200), []) ∧
  decode [0x71, 0x40] = .ok (.adc (.mem (.indY 0x40)), []) ∧
  decode [0x1E, 0xFF, 0x07] = .ok (.asl (.mem (.absX 0x07FF)), []) ∧
  decode [0x6C, 0xFF, 0x02] = .ok (.jmpInd 0x02FF, []) ∧
  decode [0xD0, 0xFE] = .ok (.bne 0xFE, []) ∧
  decode [0x48] = .ok (.pha, []) ∧
  decode [0xC7, 0x10] = .ok (.dcp (.zp 0x10), []) ∧
  decode [0x00] = .ok (.brk, []) ∧
  decode [0x02] = .ok (.undefined 0x02, [])

/-- The opcode byte alone determines the length, 1, 2 or 3 bytes (R140): with enough bytes the decoder
takes exactly so many, and with fewer it refuses by name. That a code with no entry decodes too, with length 1, is
the model's choice (log 15), and so is the name of the refusal. -/
def Obligations.OpcodeGivesLength : Prop :=
  ∀ (code : Byte) (rest : List Byte),
    (codeLength code = 1 ∨ codeLength code = 2 ∨ codeLength code = 3) ∧
    (codeLength code - 1 ≤ rest.length →
      ∃ i, decode (code :: rest) = .ok (i, rest.drop (codeLength code - 1)) ∧ (encode i).length = codeLength code) ∧
    (rest.length < codeLength code - 1 → decode (code :: rest) = .error (.truncated code (codeLength code)))

/-- The 29 codes of R150 have no entry; 227 codes are populated, 151 without the undocumented ones (R147,
R150). -/
def Obligations.PopulatedCodes : Prop :=
  (∀ code : Byte, lookup code = none ↔ code ∈ absentCodes) ∧
  ∀ cfg : Config, ((List.range 256).filter fun n => populated cfg (BitVec.ofNat 8 n)).length =
    if cfg.undocEnabled then 227 else 151

/-! ## Construction and reset (10_state.md R70 to R72, 70_reset_and_hazards.md) -/

/-- `reset()` (R450): the CPU registers, PC from the vector at 0xFFFC in PRG-ROM, RUN; nothing else changes,
from any RUN. -/
def Obligations.ResetSetsTheCpu : Prop :=
  ∀ s : State, hostReset s =
    { s with
      a := 0x00, x := 0x00, y := 0x00, sp := 0xFD, p := 0x24, run := .running
      pc := addr16 (s.prg.read (0x7FFD % prgLength s.prgSize)) (s.prg.read (0x7FFC % prgLength s.prgSize)) }

/-- The values after construction (R70, R451): the counters and registers at zero, the arrays from the
cartridge and the power-on fill. A cartridge is refused exactly when its mapper is not 0, its PRG is neither 16 KB
nor 32 KB, or its CHR is neither absent nor a multiple of 8 KB (R96, R385). That an array byte beyond a fill's list
reads 0x00 (log 2) and that a CHR of no bytes is refused (log 18) are the model's choices. -/
def Obligations.ConstructionValues : Prop :=
  (∀ (c : Cartridge) (fill : PowerOnFill) (cfg : Config),
    construct c fill cfg = none ↔
      c.mapper ≠ 0 ∨ (c.prg.length ≠ 16384 ∧ c.prg.length ≠ 32768) ∨
      ∃ l, c.chr = some l ∧ (l.length = 0 ∨ l.length % 8192 ≠ 0)) ∧
  ∀ (c : Cartridge) (fill : PowerOnFill) (cfg : Config) (s : State), construct c fill cfg = some s →
    s.run = .needsReset ∧ s.config = cfg ∧ s.cycles = 0 ∧
    s.strobe = false ∧ s.cursor = 0 ∧ s.buttons = 0x00 ∧
    s.ppu.ctrl = 0x00 ∧ s.ppu.mask = 0x00 ∧ s.ppu.status = 0x00 ∧ s.ppu.oamAddr = 0x00 ∧ s.ppu.vramAddr = 0 ∧
    s.ppu.w = false ∧ s.ppu.scrollX = 0x00 ∧ s.ppu.scrollY = 0x00 ∧ s.ppu.readBuf = 0x00 ∧
    s.ppu.scanline = 0 ∧ s.ppu.dot = 0 ∧ s.ppu.nmiPending = false ∧
    s.ppu.mirroring = c.mirroring ∧ s.ppu.chrRom = c.chr.isSome ∧
    prgLength s.prgSize = c.prg.length ∧
    (∀ k, k < c.prg.length → s.prg.read k = c.prg.getD k 0) ∧
    (∀ k, k < 0x2000 → s.ppu.chr.read k = (c.chr.getD fill.chr).getD k 0) ∧
    (∀ k, k < 0x800 → s.ram.read k = fill.ram.getD k 0) ∧
    (∀ k, k < 0x2000 → s.prgRam.read k = fill.prgRam.getD k 0) ∧
    (∀ k, k < 0x800 → s.ppu.vram.read k = fill.vram.getD k 0) ∧
    (∀ k, k < 0x20 → s.ppu.palette.read k = fill.palette.getD k 0) ∧
    (∀ k, k < 0x100 → s.ppu.oam.read k = fill.oam.getD k 0)

/-! ## Invariants -/

/-- The invariant holds of the model's state after reset. -/
def Obligations.InvAtReset : Prop := Inv State.reset

/-- The invariant holds of every machine that is constructed and reset, whatever the host's buttons. -/
def Obligations.InvAfterConstruction : Prop :=
  ∀ (c : Cartridge) (fill : PowerOnFill) (cfg : Config) (s : State) (mask : Byte), construct c fill cfg = some s →
    Inv (setButtons mask (hostReset s))

/-- Every step keeps the invariant, and so does the state that a fault leaves: canonical arrays inside their
sizes, SCANLINE and DOT in range (R66), VBLANK and a pending NMI only in lines 241 to 261 (R413, R414),
CURSOR at most 8 (R54), and B = 0 and U = 1 in P (R41, R42, R44). -/
def Obligations.StepKeepsInv : Prop :=
  ∀ s : State, Inv s →
    (∀ t, step s = .next t → Inv t) ∧ (∀ f, step s = .fault f → Inv f.left)

/-- No step changes the cartridge, the parameters or the buttons: PRG-ROM (R52, R92), CHR-ROM (R55, R102),
MIRRORING (R68), the parameters (R13) and BUTTONS (R54). The state that a fault leaves has them too. -/
def Obligations.StepKeepsFixed : Prop :=
  ∀ s : State, (∀ t, step s = .next t → SameFixed s t) ∧ (∀ f, step s = .fault f → SameFixed s f.left)

/-! ## Time (60_exceptions.md R413 to R422) -/

/-- `PpuTick(n)` moves the position by n dots modulo the frame of 262 lines of 341 dots, leaves SCANLINE and DOT in
range (R66, R413, R414), and moves nothing else of the PPU but its status flags and the pending NMI, under any
`SPRITE_EVAL`. -/
def Obligations.TickMovesPosition : Prop :=
  ∀ (rule : SpriteEval) (n : Nat) (p : Ppu),
    (p.InFrame →
      (ppuTick rule n p).1.InFrame ∧ (ppuTick rule n p).1.position = (p.position + n) % frameDots) ∧
    Ppu.SameData p (ppuTick rule n p).1

/-- VBLANK, NMI_PENDING and frame_complete over a tick of any length (R414): within the frame, line 241 sets
them; after a wrap, and however many follow it, they are what the last frame leaves. -/
def Obligations.TickVblank : Prop :=
  ∀ (rule : SpriteEval) (n : Nat) (p : Ppu), p.InFrame →
    let r := ppuTick rule n p
    (p.position + n < frameDots →
      r.2 = false ∧
      (p.position < 241 * 341 ∧ 241 * 341 ≤ p.position + n →
        r.1.vblank = true ∧ r.1.nmiPending = (p.nmiPending || p.ctrl.getLsbD 7)) ∧
      (¬(p.position < 241 * 341 ∧ 241 * 341 ≤ p.position + n) →
        r.1.vblank = p.vblank ∧ r.1.nmiPending = p.nmiPending)) ∧
    (frameDots ≤ p.position + n →
      let late := decide (241 * 341 ≤ (p.position + n) % frameDots)
      r.2 = true ∧ r.1.vblank = late ∧ r.1.nmiPending = (late && p.ctrl.getLsbD 7))

/-- SPRITE0_HIT and OVERFLOW over a tick (R61, R414, R415). Under the default `SPRITE_EVAL`, over a tick of any length:
SPRITE0_HIT is set when a line equal to OAM[0] is left while SHOW_SPRITES is 1, cleared by each wrap, and OVERFLOW
never changes. Under every `SPRITE_EVAL`: a tick that leaves no line changes neither; one that leaves one line does to
them what the rule says for that line, and then the wrap clears SPRITE0_HIT; and nothing but a wrap clears
SPRITE0_HIT. -/
def Obligations.TickSpriteZero : Prop :=
  (∀ (n : Nat) (p : Ppu), p.InFrame →
    let r := ppuTick .standard n p
    let y := (p.oam.read 0).toNat
    r.1.overflow = p.overflow ∧
    (p.position + n < frameDots →
      r.1.sprite0Hit =
        (p.sprite0Hit || (p.mask.getLsbD 4 && decide (p.scanline ≤ y ∧ y < r.1.scanline)))) ∧
    (frameDots ≤ p.position + n →
      r.1.sprite0Hit = (p.mask.getLsbD 4 && decide (y < r.1.scanline)))) ∧
  ∀ (rule : SpriteEval) (n : Nat) (p : Ppu), p.InFrame →
    let r := ppuTick rule n p
    let done := Ppu.spriteAction { p with dot := p.dot + n } rule
    (p.dot + n < 341 → r.1.sprite0Hit = p.sprite0Hit ∧ r.1.overflow = p.overflow) ∧
    (341 ≤ p.dot + n ∧ p.dot + n < 682 →
      r.1.sprite0Hit = (decide (p.scanline ≠ 261) && (p.sprite0Hit || done.hit)) ∧
      r.1.overflow = done.overflow.getD p.overflow) ∧
    (p.position + n < frameDots → p.sprite0Hit = true → r.1.sprite0Hit = true)

/-- `Tick(n)` (R420): n on CYCLES, 3·n dots for the PPU, the frame event on a rise of NMI_PENDING, frame complete on
a wrap, and nothing else. -/
def Obligations.BusTick : Prop :=
  ∀ (n : Nat) (s : State),
    let r := ppuTick s.config.spriteEval (3 * n) s.ppu
    tick n s =
      { s with
        cycles := s.cycles + n
        ppu := r.1
        frameEvent := s.frameEvent || (!s.ppu.nmiPending && r.1.nmiPending)
        frameComplete := s.frameComplete || r.2 }

/-- A step that completes has ticked the PPU three dots for each CPU cycle that it counts (R421). -/
def Obligations.StepClock : Prop :=
  ∀ s t : State, s.ppu.InFrame → step s = .next t →
    s.cycles ≤ t.cycles ∧ t.ppu.InFrame ∧
    t.ppu.position = (s.ppu.position + 3 * (t.cycles - s.cycles)) % frameDots

/-! ## The step (40_execution_and_addressing.md, 60_exceptions.md) -/

/-- When the bytes at PC decode to `i`, and reading each gives it and changes nothing, a running machine with no NMI
pending runs `i` with PC past the opcode byte (R170, R171, R173). An undocumented operation's code is populated
only with `UNDOC_ENABLED` (R350). -/
def Obligations.StepRunsDecoded : Prop :=
  ∀ (s : State) (i : Instr) (bytes : List Byte),
    let s0 := { s with frameEvent := false, frameComplete := false }
    s.run = .running → s.ppu.nmiPending = false → decode bytes = .ok (i, []) →
    (∀ op, i.op = some op → op.documented = true ∨ s.config.undocEnabled = true) →
    (∀ k b, bytes[k]? = some b → busRead (s.pc + BitVec.ofNat 16 k) s0 = .ok b s0) →
    step s = exec i { s0 with pc := s.pc + 1 }

/-- The fetch's own faults (R171 to R173, R381, R382, R386, R387): a byte with no entry, after its read, with
PC = pc0 + 1, no operand read and no tick; an opcode read that faults; and a read of the first or of the second
operand byte that faults, with PC = pc0 + 1. The meaning of a code with no entry is the first of these. -/
def Obligations.FetchFaults : Prop :=
  (∀ (s t : State) (code : Byte),
    let s0 := { s with frameEvent := false, frameComplete := false }
    s.run = .running → s.ppu.nmiPending = false → busRead s.pc s0 = .ok code t →
    (code ∈ absentCodes ∨
      s.config.undocEnabled = false ∧ ∃ e, lookup code = some e ∧ e.op.documented = false) →
    step s = .fault (.undefinedOpcode code s.pc
      { t with pc := s.pc + 1, run := .faulted (.undefinedOpcode code s.pc) })) ∧
  (∀ (s : State) (f : Fault),
    let s0 := { s with frameEvent := false, frameComplete := false }
    s.run = .running → s.ppu.nmiPending = false → busRead s.pc s0 = .fault f → step s = .fault f) ∧
  (∀ (s u : State) (code : Byte) (e : Entry),
    let s0 := { s with frameEvent := false, frameComplete := false }
    let u1 := { u with pc := s.pc + 1 }
    s.run = .running → s.ppu.nmiPending = false → busRead s.pc s0 = .ok code u → lookup code = some e →
    (e.op.documented = true ∨ s.config.undocEnabled = true) →
    (∀ f, 2 ≤ e.mode.length → busRead (s.pc + 1) u1 = .fault f → step s = .fault f ∧ f.left.pc = s.pc + 1) ∧
    (∀ b w f, e.mode.length = 3 → busRead (s.pc + 1) u1 = .ok b w → busRead (s.pc + 2) w = .fault f →
      step s = .fault f ∧ f.left.pc = s.pc + 1)) ∧
  (∀ (s : State) (code : Byte),
    exec (.undefined code) s = .fault (.undefinedOpcode code (s.pc - 1)
      { s with run := .faulted (.undefinedOpcode code (s.pc - 1)) }))

/-- A step of a machine that is not running answers its state's outcome, whatever is pending, and changes nothing
but the RUN of a machine that was never reset, which the fault leaves Faulted (R71, R384, R386, R396). That a
halted step is a next state is the model's choice (log 17), and so is the reading of R71 by R386 (log 6). -/
def Obligations.StepNotRunning : Prop :=
  ∀ s : State,
    let s0 := { s with frameEvent := false, frameComplete := false }
    (s.run = .halted → step s = .next s0) ∧
    (s.run = .needsReset → step s = .fault (.notReset { s0 with run := .faulted .notReset })) ∧
    (s.run = .faulted .notReset → step s = .fault (.notReset s0)) ∧
    (∀ opcode pc, s.run = .faulted (.undefinedOpcode opcode pc) → step s = .fault (.undefinedOpcode opcode pc s0)) ∧
    (∀ addr k, s.run = .faulted (.illegalAccess addr k) → step s = .fault (.illegalAccess addr k s0)) ∧
    (∀ q, s.run = .faulted (.unmodelled q) → step s = .fault (.unmodelled q s0))

/-- The NMI entry (R392, R393): a pending NMI is consumed, PC and P are pushed, I is set, the entry's cycles are
ticked, and PC comes from the vector at 0xFFFA, whatever I holds. -/
def Obligations.NmiEntry : Prop :=
  ∀ s : State, s.run = .running → s.ppu.nmiPending = true →
    let ram1 := s.ram.write (stackIndex s.sp) (highByte s.pc)
    let ram2 := ram1.write (stackIndex (s.sp - 1)) (lowByte s.pc)
    let ram3 := ram2.write (stackIndex (s.sp - 2)) ((s.p &&& 0xEF) ||| 0x20)
    let pushed := { s with
      ram := ram3, sp := s.sp - 3, p := s.p ||| 0x04, ppu := { s.ppu with nmiPending := false }
      frameEvent := false, frameComplete := false }
    step s = .next { tick s.config.nmiEntryCycles pushed with
      pc := addr16 (s.prg.read (0x7FFB % prgLength s.prgSize)) (s.prg.read (0x7FFA % prgLength s.prgSize)) }

/-- RTI after an NMI entry resumes at the pushed PC with the stack pointer back and P as it was, B cleared and U set
(R294, R394). -/
def Obligations.RtiAfterNmi : Prop :=
  ∀ s t : State, s.run = .running → s.ppu.nmiPending = true → step s = .next t →
    ∃ u, exec .rti { t with pc := t.pc + 1 } = .next u ∧
      u.pc = s.pc ∧ u.sp = s.sp ∧ u.p = (s.p &&& 0xEF) ||| 0x20

/-- What every fault of a step leaves (R386): RUN is Faulted with the fault's kind and info, no tick has happened,
and every later step returns the same fault and changes nothing. For NotReset this reads R71 by R386 (log 6). -/
def Obligations.FaultIsTerminal : Prop :=
  ∀ (s : State) (f : Fault), step s = .fault f →
    f.left.run = .faulted f.info ∧ f.left.cycles = s.cycles ∧
    f.left.ppu.scanline = s.ppu.scanline ∧ f.left.ppu.dot = s.ppu.dot ∧
    step f.left = .fault f

/-- A step that executes a populated opcode leaves PC at pc0 plus the entry's length unless it is a control transfer,
and ticks at least the entry's cycles and at most two more and an OAM DMA's stall (R175, R176, R177, R470). -/
def Obligations.StepPcAndCycles : Prop :=
  ∀ (s t u : State) (code : Byte) (e : Entry),
    s.run = .running → s.ppu.nmiPending = false →
    busRead s.pc { s with frameEvent := false, frameComplete := false } = .ok code u →
    lookup code = some e → step s = .next t →
    (e.op ∉ [.jmp, .jsr, .rts, .rti, .bpl, .bmi, .bvc, .bvs, .bcc, .bcs, .bne, .beq] →
      t.pc = s.pc + BitVec.ofNat 16 e.mode.length) ∧
    s.cycles + e.cycles ≤ t.cycles ∧ t.cycles ≤ s.cycles + e.cycles + 2 + s.config.oamDmaStall

/-! ## What instructions leave unchanged (10_state.md R30 to R43) -/

/-- Only the instructions of R31, R32, R33 and R34 change A, X, Y and SP. -/
def Obligations.RegistersWrittenOnlyBy : Prop :=
  ∀ (i : Instr) (s t : State), exec i s = .next t →
    (i.writesA = false → t.a = s.a) ∧ (i.writesX = false → t.x = s.x) ∧
    (i.writesY = false → t.y = s.y) ∧ (i.writesSp = false → t.sp = s.sp)

/-- Only the instructions of R37 to R43 change each flag; B and U only with all of P, by PLP and RTI. -/
def Obligations.FlagsWrittenOnlyBy : Prop :=
  ∀ (i : Instr) (s t : State) (f : Flag), exec i s = .next t → i.writesFlag f = false → t.flag f = s.flag f

/-- An instruction that stores nothing leaves every byte of every array, unless its data access is a device's
read, which stores nothing either (R86, R122, R174). -/
def Obligations.NoStoreLeavesBytes : Prop :=
  ∀ (i : Instr) (s t : State), exec i s = .next t → i.stores = false →
    ∀ (r : Space) (k : Nat), t.byteAt r k = s.byteAt r k

/-- An instruction without a memory operand or pointer changes no device: the PPU moves only by the step's Tick, and
the input latch, PRG-RAM, the parameters and the draws stay (R86, R122, R191). -/
def Obligations.NoAccessLeavesDevices : Prop :=
  ∀ (i : Instr) (s t : State), exec i s = .next t → i.accessesData = false →
    t.ppu = (ppuTick s.config.spriteEval (3 * (t.cycles - s.cycles)) s.ppu).1 ∧ s.cycles ≤ t.cycles ∧
    t.strobe = s.strobe ∧ t.cursor = s.cursor ∧ t.buttons = s.buttons ∧ t.prgRam = s.prgRam ∧ t.prg = s.prg ∧
    t.config = s.config ∧ t.draws = s.draws

/-- A store leaves every byte but the stored one, at the address that the mode resolves: STA, STX, STY and SAX
(R174, R213 to R215, R352). A push leaves every byte but its own in the stack page: PHA and PHP one, JSR two (R110,
R111, R292, R320, R322). -/
def Obligations.StoresLeaveOtherBytes : Prop :=
  (∀ (m : MemOperand) (s u t : State) (e : EffAddr), resolve m s = .ok e u →
    (exec (.sta m) s = .next t ∨ exec (.stx m) s = .next t ∨ exec (.sty m) s = .next t ∨
      exec (.sax m) s = .next t) →
    ∀ (r : Space) (k : Nat), storesTo e.ea u r k = false → t.byteAt r k = s.byteAt r k) ∧
  (∀ (s t : State), exec .pha s = .next t ∨ exec .php s = .next t →
    ∀ (r : Space) (k : Nat), ¬(r = .ram ∧ k = stackIndex s.sp) → t.byteAt r k = s.byteAt r k) ∧
  (∀ (s t : State) (a : Addr), exec (.jsr a) s = .next t →
    ∀ (r : Space) (k : Nat), ¬(r = .ram ∧ (k = stackIndex s.sp ∨ k = stackIndex (s.sp - 1))) →
      t.byteAt r k = s.byteAt r k)

/-- A read-modify-write leaves every byte but the stored one. Its write goes where its address leads after its own
read, which may have moved PPUADDR (R117, R174, R249). -/
def Obligations.RmwLeavesOtherBytes : Prop :=
  ∀ (m : MemOperand) (s u w t : State) (e : EffAddr) (v : Byte),
    resolve m s = .ok e u → busRead e.ea u = .ok v w →
    (∃ i ∈ [Instr.inc m, .dec m, .asl (.mem m), .lsr (.mem m), .rol (.mem m), .ror (.mem m),
        .slo m, .rla m, .sre m, .rra m, .dcp m, .isb m], exec i s = .next t) →
    ∀ (r : Space) (k : Nat), storesTo e.ea w r k = false → t.byteAt r k = s.byteAt r k

/-! ## Effective addresses and operands -/

/-- Resolve in every mode that names a memory location (R181 to R187, R189, R190, R193): no fault and no change, the
zero-page sums and pointers wrap in page 0, and a crossing is a change of the high byte. A read-class operand is the
immediate byte, not read again (R174, R180), or one read at the effective address. -/
def Obligations.EffectiveAddresses : Prop :=
  (∀ (s : State) (z : Byte) (a : Addr),
    let pointer := fun z : Byte => addr16 (s.ram.read (z + 1).toNat) (s.ram.read z.toNat)
    let index := fun (b : Addr) (i : Byte) =>
      EffAddr.mk (b + zext16 i) (decide (highByte (b + zext16 i) ≠ highByte b))
    resolve (.zp z) s = .ok ⟨addr16 0x00 z, false⟩ s ∧
    resolve (.zpX z) s = .ok ⟨addr16 0x00 (z + s.x), false⟩ s ∧
    resolve (.zpY z) s = .ok ⟨addr16 0x00 (z + s.y), false⟩ s ∧
    resolve (.abs a) s = .ok ⟨a, false⟩ s ∧
    resolve (.absX a) s = .ok (index a s.x) s ∧
    resolve (.absY a) s = .ok (index a s.y) s ∧
    resolve (.indX z) s = .ok ⟨pointer (z + s.x), false⟩ s ∧
    resolve (.indY z) s = .ok (index (pointer z) s.y) s) ∧
  (∀ (v : Byte) (s : State), readSource (.imm v) s = .ok (v, false) s) ∧
  (∀ (m : MemOperand) (s u t : State) (e : EffAddr) (v : Byte), resolve m s = .ok e u → busRead e.ea u = .ok v t →
    readSource (.mem m) s = .ok (v, e.crossed) t) ∧
  (∀ (m : MemOperand) (s u : State) (e : EffAddr) (f : Fault), resolve m s = .ok e u → busRead e.ea u = .fault f →
    readSource (.mem m) s = .fault f)

/-- An access that faults stops the instruction with that fault (R209, R239, R295, R382, R383, R386, R387): the one read
of a read, the one write of a store, and the read or the write of a read-modify-write. A shift's write is made in a
state that has the new C already (log 12). -/
def Obligations.FaultingAccessesStop : Prop :=
  (∀ (o : Source) (s : State) (f : Fault), readSource o s = .fault f →
    (∀ i ∈ [Instr.lda o, .ldx o, .ldy o, .adc o, .sbc o, .and o, .ora o, .eor o, .cmp o, .cpx o, .cpy o],
      exec i s = .fault f) ∧
    (∀ code, exec (.nopUndoc code (.read o)) s = .fault f) ∧
    (∀ m, o = .mem m → exec (.bit m) s = .fault f ∧ exec (.lax m) s = .fault f)) ∧
  (∀ (m : MemOperand) (s u : State) (e : EffAddr) (f : Fault), resolve m s = .ok e u →
    (busWrite e.ea s.a u = .fault f → exec (.sta m) s = .fault f) ∧
    (busWrite e.ea s.x u = .fault f → exec (.stx m) s = .fault f) ∧
    (busWrite e.ea s.y u = .fault f → exec (.sty m) s = .fault f) ∧
    (busWrite e.ea (s.a &&& s.x) u = .fault f → exec (.sax m) s = .fault f) ∧
    (busRead e.ea u = .fault f →
      ∀ i ∈ [Instr.inc m, .dec m, .asl (.mem m), .lsr (.mem m), .rol (.mem m), .ror (.mem m),
        .slo m, .rla m, .sre m, .rra m, .dcp m, .isb m], exec i s = .fault f)) ∧
  (∀ (m : MemOperand) (s u w : State) (e : EffAddr) (v : Byte) (f : Fault),
    resolve m s = .ok e u → busRead e.ea u = .ok v w →
    let up := (v <<< 1) ||| (if w.flag .c then 0x01 else 0x00)
    let down := (v >>> 1) ||| (if w.flag .c then 0x80 else 0x00)
    let stored := fun (r : Byte) (c : Bool) => busWrite e.ea r { w with p := cBits w.p c } = .fault f
    (busWrite e.ea (v + 1) w = .fault f → exec (.inc m) s = .fault f ∧ exec (.isb m) s = .fault f) ∧
    (busWrite e.ea (v - 1) w = .fault f → exec (.dec m) s = .fault f ∧ exec (.dcp m) s = .fault f) ∧
    (stored (v <<< 1) (v.getLsbD 7) → exec (.asl (.mem m)) s = .fault f ∧ exec (.slo m) s = .fault f) ∧
    (stored (v >>> 1) (v.getLsbD 0) → exec (.lsr (.mem m)) s = .fault f ∧ exec (.sre m) s = .fault f) ∧
    (stored up (v.getLsbD 7) → exec (.rol (.mem m)) s = .fault f ∧ exec (.rla m) s = .fault f) ∧
    (stored down (v.getLsbD 0) → exec (.ror (.mem m)) s = .fault f ∧ exec (.rra m) s = .fault f))

/-! ## Loads, stores and transfers (41_load_store_transfer.md) -/

/-- LDA, LDX, LDY and LAX (R210 to R212, R351) complete with the operand in the register, Z and N from it, PC past the
operand bytes and the cycles of the grid. -/
def Obligations.LoadsComplete : Prop :=
  ∀ (o : Source) (s t : State) (v : Byte) (crossed : Bool), readSource o s = .ok (v, crossed) t →
    let pc := t.pc + BitVec.ofNat 16 o.bytes.length
    let n := readCycles o crossed
    ((Instr.lda o).wellFormed = true →
      exec (.lda o) s = .next (tick n { t with a := v, p := znBits t.p v, pc := pc })) ∧
    ((Instr.ldx o).wellFormed = true →
      exec (.ldx o) s = .next (tick n { t with x := v, p := znBits t.p v, pc := pc })) ∧
    ((Instr.ldy o).wellFormed = true →
      exec (.ldy o) s = .next (tick n { t with y := v, p := znBits t.p v, pc := pc })) ∧
    (∀ m, o = .mem m → (Instr.lax m).wellFormed = true →
      exec (.lax m) s = .next (tick n { t with a := v, x := v, p := znBits t.p v, pc := pc }))

/-- STA, STX, STY and SAX (R213 to R215, R352) complete when their one write does: no read, no flag, no penalty, and the
write's stall on top of the cycles. -/
def Obligations.StoresComplete : Prop :=
  ∀ (m : MemOperand) (s u t : State) (e : EffAddr) (stall : Nat), resolve m s = .ok e u →
    let done := fun t : State =>
      Host.Outcome.next (φ := Fault) (ρ := Refusal)
        (tick (storeCycles m + stall) { t with pc := t.pc + BitVec.ofNat 16 m.bytes.length })
    ((Instr.sta m).wellFormed = true → busWrite e.ea s.a u = .ok stall t → exec (.sta m) s = done t) ∧
    ((Instr.stx m).wellFormed = true → busWrite e.ea s.x u = .ok stall t → exec (.stx m) s = done t) ∧
    ((Instr.sty m).wellFormed = true → busWrite e.ea s.y u = .ok stall t → exec (.sty m) s = done t) ∧
    ((Instr.sax m).wellFormed = true → busWrite e.ea (s.a &&& s.x) u = .ok stall t → exec (.sax m) s = done t)

/-- The transfers and the register counters (R216 to R221, R251 to R254): the result, Z and N from it (TXS leaves
P), PC and 2 cycles, from every state; and their codes. -/
def Obligations.RegisterOpsComplete : Prop :=
  ∀ s : State,
    exec .tax s = .next (tick 2 { s with x := s.a, p := znBits s.p s.a }) ∧
    exec .tay s = .next (tick 2 { s with y := s.a, p := znBits s.p s.a }) ∧
    exec .txa s = .next (tick 2 { s with a := s.x, p := znBits s.p s.x }) ∧
    exec .tya s = .next (tick 2 { s with a := s.y, p := znBits s.p s.y }) ∧
    exec .tsx s = .next (tick 2 { s with x := s.sp, p := znBits s.p s.sp }) ∧
    exec .txs s = .next (tick 2 { s with sp := s.x }) ∧
    exec .inx s = .next (tick 2 { s with x := s.x + 1, p := znBits s.p (s.x + 1) }) ∧
    exec .iny s = .next (tick 2 { s with y := s.y + 1, p := znBits s.p (s.y + 1) }) ∧
    exec .dex s = .next (tick 2 { s with x := s.x - 1, p := znBits s.p (s.x - 1) }) ∧
    exec .dey s = .next (tick 2 { s with y := s.y - 1, p := znBits s.p (s.y - 1) }) ∧
    encode .tax = [0xAA] ∧ encode .tay = [0xA8] ∧ encode .txa = [0x8A] ∧ encode .tya = [0x98] ∧
    encode .tsx = [0xBA] ∧ encode .txs = [0x9A] ∧ encode .inx = [0xE8] ∧ encode .iny = [0xC8] ∧
    encode .dex = [0xCA] ∧ encode .dey = [0x88]

/-! ## Arithmetic, logic, compare, increment, shift (42_arithmetic_logic.md) -/

/-- ADC and SBC complete with `AddCore` of the operand or of its complement (R240, R241, R361), whatever D holds. -/
def Obligations.AddSubComplete : Prop :=
  ∀ (o : Source) (s t : State) (v : Byte) (crossed : Bool), readSource o s = .ok (v, crossed) t →
    let pc := t.pc + BitVec.ofNat 16 o.bytes.length
    let n := readCycles o crossed
    ((Instr.adc o).wellFormed = true →
      exec (.adc o) s =
        .next (tick n { t with a := addByte t.a v (carryIn t.p), p := addBits t.p t.a v, pc := pc })) ∧
    ((Instr.sbc o).wellFormed = true →
      exec (.sbc o) s =
        .next (tick n { t with a := addByte t.a (~~~v) (carryIn t.p), p := addBits t.p t.a (~~~v), pc := pc })) ∧
    (o = .imm v →
      exec (.sbcUndoc v) s =
        .next (tick n { t with a := addByte t.a (~~~v) (carryIn t.p), p := addBits t.p t.a (~~~v), pc := pc }))

/-- ADC is the 9-bit binary sum, and SBC is A − m − (1 − C): the result modulo 256, C as carry and as no borrow, V as
signed overflow, Z and N from the result, and D without effect (R40, R240, R241, R259). -/
def Obligations.AddSubArithmetic : Prop :=
  ∀ (o : Source) (s u t : State) (v : Byte) (crossed : Bool), readSource o s = .ok (v, crossed) u →
    (exec (.adc o) s = .next t →
      t.a.toNat + 256 * carryIn t.p = u.a.toNat + v.toNat + carryIn u.p ∧
      (t.flag .v = true ↔
        u.a.toInt + v.toInt + carryIn u.p < -128 ∨ 127 < u.a.toInt + v.toInt + carryIn u.p) ∧
      t.flag .z = decide (t.a = 0) ∧ t.flag .n = t.a.msb) ∧
    (exec (.sbc o) s = .next t →
      (t.a.toNat : Int) = (u.a.toNat - v.toNat - (1 - carryIn u.p)) % 256 ∧
      (t.flag .c = true ↔ (0 : Int) ≤ u.a.toNat - v.toNat - (1 - carryIn u.p)) ∧
      (t.flag .v = true ↔
        u.a.toInt - v.toInt - (1 - carryIn u.p) < -128 ∨ 127 < u.a.toInt - v.toInt - (1 - carryIn u.p)) ∧
      t.flag .z = decide (t.a = 0) ∧ t.flag .n = t.a.msb)

/-- AND, ORA and EOR (R242 to R244) complete with the result in A and Z and N from it. CMP, CPX, CPY and BIT (R245 to R248)
complete and write only P: C as unsigned ≥, Z as equality, N from the difference; and for BIT, Z from the AND, N and V
from the operand. -/
def Obligations.LogicAndComparesComplete : Prop :=
  ∀ (o : Source) (s t : State) (v : Byte) (crossed : Bool), readSource o s = .ok (v, crossed) t →
    let done := fun a p : Byte =>
      Host.Outcome.next (φ := Fault) (ρ := Refusal)
        (tick (readCycles o crossed) { t with a := a, p := p, pc := t.pc + BitVec.ofNat 16 o.bytes.length })
    ((Instr.and o).wellFormed = true → exec (.and o) s = done (t.a &&& v) (znBits t.p (t.a &&& v))) ∧
    ((Instr.ora o).wellFormed = true → exec (.ora o) s = done (t.a ||| v) (znBits t.p (t.a ||| v))) ∧
    ((Instr.eor o).wellFormed = true → exec (.eor o) s = done (t.a ^^^ v) (znBits t.p (t.a ^^^ v))) ∧
    ((Instr.cmp o).wellFormed = true → exec (.cmp o) s = done t.a (compareBits t.p t.a v)) ∧
    ((Instr.cpx o).wellFormed = true → exec (.cpx o) s = done t.a (compareBits t.p t.x v)) ∧
    ((Instr.cpy o).wellFormed = true → exec (.cpy o) s = done t.a (compareBits t.p t.y v)) ∧
    (∀ m, o = .mem m → (Instr.bit m).wellFormed = true → exec (.bit m) s = done t.a (bitBits t.p t.a v))

/-- INC and DEC (R249, R250) complete when their read and their write do: the byte written, Z and N from it. -/
def Obligations.IncDecComplete : Prop :=
  ∀ (m : MemOperand) (s u w t : State) (e : EffAddr) (v : Byte) (stall : Nat),
    resolve m s = .ok e u → busRead e.ea u = .ok v w →
    let done := fun r : Byte =>
      Host.Outcome.next (φ := Fault) (ρ := Refusal)
        (tick (rmwCycles m + stall) { t with p := znBits t.p r, pc := t.pc + BitVec.ofNat 16 m.bytes.length })
    ((Instr.inc m).wellFormed = true → busWrite e.ea (v + 1) w = .ok stall t → exec (.inc m) s = done (v + 1)) ∧
    ((Instr.dec m).wellFormed = true → busWrite e.ea (v - 1) w = .ok stall t → exec (.dec m) s = done (v - 1))

/-- The shifts and rotates of A and of memory (R255 to R258): the shifted byte in A, or by one read and one write in memory; C
from the bit shifted out, Z and N from the byte. The write is made in a state that has the new C already (log 12). -/
def Obligations.ShiftsComplete : Prop :=
  (∀ s : State,
    let done := fun (r : Byte) (c : Bool) =>
      Host.Outcome.next (φ := Fault) (ρ := Refusal) (tick 2 { s with a := r, p := znBits (cBits s.p c) r })
    exec (.asl .acc) s = done (s.a <<< 1) (s.a.getLsbD 7) ∧
    exec (.lsr .acc) s = done (s.a >>> 1) (s.a.getLsbD 0) ∧
    exec (.rol .acc) s = done ((s.a <<< 1) ||| (if s.flag .c then 0x01 else 0x00)) (s.a.getLsbD 7) ∧
    exec (.ror .acc) s = done ((s.a >>> 1) ||| (if s.flag .c then 0x80 else 0x00)) (s.a.getLsbD 0)) ∧
  ∀ (m : MemOperand) (s u w t : State) (e : EffAddr) (v r : Byte) (stall : Nat),
    resolve m s = .ok e u → busRead e.ea u = .ok v w →
    let done := Host.Outcome.next (φ := Fault) (ρ := Refusal)
      (tick (rmwCycles m + stall) { t with p := znBits t.p r, pc := t.pc + BitVec.ofNat 16 m.bytes.length })
    let stored := fun c : Bool => busWrite e.ea r { w with p := cBits w.p c } = .ok stall t
    ((Instr.asl (.mem m)).wellFormed = true → r = v <<< 1 → stored (v.getLsbD 7) → exec (.asl (.mem m)) s = done) ∧
    ((Instr.lsr (.mem m)).wellFormed = true → r = v >>> 1 → stored (v.getLsbD 0) → exec (.lsr (.mem m)) s = done) ∧
    ((Instr.rol (.mem m)).wellFormed = true → r = (v <<< 1) ||| (if w.flag .c then 0x01 else 0x00) →
      stored (v.getLsbD 7) → exec (.rol (.mem m)) s = done) ∧
    ((Instr.ror (.mem m)).wellFormed = true → r = (v >>> 1) ||| (if w.flag .c then 0x80 else 0x00) →
      stored (v.getLsbD 0) → exec (.ror (.mem m)) s = done)

/-! ## Undocumented composites (45_undocumented.md) -/

/-- SLO, RLA, SRE, RRA, DCP and ISB (R353 to R358) complete when their read and their write do: the byte that the first
operation writes is the second's operand, and the second's flags remain. The write of a shift is made in a state
that has the new C already (log 12). -/
def Obligations.CompositesComplete : Prop :=
  ∀ (m : MemOperand) (s u w t : State) (e : EffAddr) (v r : Byte) (stall : Nat),
    resolve m s = .ok e u → busRead e.ea u = .ok v w →
    let done := fun (a p : Byte) => Host.Outcome.next (φ := Fault) (ρ := Refusal)
      (tick (rmwCycles m + stall) { t with a := a, p := p, pc := t.pc + BitVec.ofNat 16 m.bytes.length })
    let shifted := fun c : Bool => busWrite e.ea r { w with p := cBits w.p c } = .ok stall t
    ((Instr.slo m).wellFormed = true → r = v <<< 1 → shifted (v.getLsbD 7) →
      exec (.slo m) s = done (t.a ||| r) (znBits t.p (t.a ||| r))) ∧
    ((Instr.rla m).wellFormed = true → r = (v <<< 1) ||| (if w.flag .c then 0x01 else 0x00) → shifted (v.getLsbD 7) →
      exec (.rla m) s = done (t.a &&& r) (znBits t.p (t.a &&& r))) ∧
    ((Instr.sre m).wellFormed = true → r = v >>> 1 → shifted (v.getLsbD 0) →
      exec (.sre m) s = done (t.a ^^^ r) (znBits t.p (t.a ^^^ r))) ∧
    ((Instr.rra m).wellFormed = true → r = (v >>> 1) ||| (if w.flag .c then 0x80 else 0x00) → shifted (v.getLsbD 0) →
      exec (.rra m) s = done (addByte t.a r (carryIn t.p)) (addBits t.p t.a r)) ∧
    ((Instr.dcp m).wellFormed = true → r = v - 1 → busWrite e.ea r w = .ok stall t →
      exec (.dcp m) s = done t.a (compareBits t.p t.a r)) ∧
    ((Instr.isb m).wellFormed = true → r = v + 1 → busWrite e.ea r w = .ok stall t →
      exec (.isb m) s = done (addByte t.a (~~~r) (carryIn t.p)) (addBits t.p t.a (~~~r)))

/-! ## Control transfer (43_control_transfer.md) -/

/-- JMP, JMP indirect, JSR, RTS and RTI (R290 to R294): where PC goes, what the stack holds, P after RTI, and the cycles. The
indirect pointer's high byte wraps in the pointer's page (R188), and a read of it that faults stops the jump (R295). And
their codes. -/
def Obligations.JumpsComplete : Prop :=
  ∀ s : State,
    (∀ a, exec (.jmp a) s = .next (tick 3 { s with pc := a })) ∧
    (∀ ptr lo hi u t, busRead ptr s = .ok lo u →
      busRead (addr16 (highByte ptr) (lowByte ptr + 1)) u = .ok hi t →
      exec (.jmpInd ptr) s = .next (tick 5 { t with pc := addr16 hi lo })) ∧
    (∀ ptr f, busRead ptr s = .fault f → exec (.jmpInd ptr) s = .fault f) ∧
    (∀ ptr lo u f, busRead ptr s = .ok lo u → busRead (addr16 (highByte ptr) (lowByte ptr + 1)) u = .fault f →
      exec (.jmpInd ptr) s = .fault f) ∧
    (∀ a, exec (.jsr a) s = .next (tick 6 { s with
      ram := (s.ram.write (stackIndex s.sp) (highByte (s.pc + 1))).write (stackIndex (s.sp - 1)) (lowByte (s.pc + 1))
      sp := s.sp - 2
      pc := a })) ∧
    exec .rts s = .next (tick 6 { s with
      sp := s.sp + 2
      pc := addr16 (s.ram.read (stackIndex (s.sp + 2))) (s.ram.read (stackIndex (s.sp + 1))) + 1 }) ∧
    exec .rti s = .next (tick 6 { s with
      p := (s.ram.read (stackIndex (s.sp + 1)) &&& 0xEF) ||| 0x20
      sp := s.sp + 3
      pc := addr16 (s.ram.read (stackIndex (s.sp + 3))) (s.ram.read (stackIndex (s.sp + 2))) }) ∧
    (∀ a, encode (.jmp a) = [0x4C, lowByte a, highByte a] ∧ encode (.jmpInd a) = [0x6C, lowByte a, highByte a] ∧
      encode (.jsr a) = [0x20, lowByte a, highByte a]) ∧
    encode .rts = [0x60] ∧ encode .rti = [0x40]

/-- An RTS after a JSR returns to the byte after the JSR, with the stack pointer back: "the pushed value is the return
address minus one, and RTS adds the one back" (R292, R293). A meaning starts with PC = pc0 + 1. -/
def Obligations.RtsAfterJsr : Prop :=
  ∀ (s t : State) (a : Addr), exec (.jsr a) s = .next t →
    t.pc = a ∧ ∃ u, exec .rts { t with pc := t.pc + 1 } = .next u ∧ u.pc = s.pc + 2 ∧ u.sp = s.sp

/-- The eight branches (R296 to R304): the condition, the target, and 2, 3 or 4 cycles, where the page compared is that of the
instruction after the branch. No flag changes. And their codes, with the displacement byte. -/
def Obligations.BranchesComplete : Prop :=
  ∀ (d : Byte) (s : State),
    let fall := s.pc + 1
    let target := fall + sext16 d
    let taken := Host.Outcome.next (φ := Fault) (ρ := Refusal)
      (tick (if highByte target = highByte fall then 3 else 4) { s with pc := target })
    let passed := Host.Outcome.next (φ := Fault) (ρ := Refusal) (tick 2 { s with pc := fall })
    exec (.bpl d) s = (if s.flag .n then passed else taken) ∧
    exec (.bmi d) s = (if s.flag .n then taken else passed) ∧
    exec (.bvc d) s = (if s.flag .v then passed else taken) ∧
    exec (.bvs d) s = (if s.flag .v then taken else passed) ∧
    exec (.bcc d) s = (if s.flag .c then passed else taken) ∧
    exec (.bcs d) s = (if s.flag .c then taken else passed) ∧
    exec (.bne d) s = (if s.flag .z then passed else taken) ∧
    exec (.beq d) s = (if s.flag .z then taken else passed) ∧
    encode (.bpl d) = [0x10, d] ∧ encode (.bmi d) = [0x30, d] ∧ encode (.bvc d) = [0x50, d] ∧ encode (.bvs d) = [0x70, d] ∧
    encode (.bcc d) = [0x90, d] ∧ encode (.bcs d) = [0xB0, d] ∧ encode (.bne d) = [0xD0, d] ∧ encode (.beq d) = [0xF0, d]

/-- BRK halts after its 7 cycles, and no step moves the machine after it (R305, R396). PC is pc0 + 1 at the start of the
meaning already. That the outcome Halted, and every step of a halted machine, is a next state is the model's choice
(log 17). -/
def Obligations.BrkHalts : Prop :=
  ∀ s : State,
    exec .brk s = .next { tick 7 s with run := .halted } ∧
    (∀ t, exec .brk s = .next t → step t = .next { t with frameEvent := false, frameComplete := false }) ∧
    encode .brk = [0x00]

/-- NOP (R306) and the undocumented NOPs (R360): PC and the cycles, and for a form with an operand one read whose value is
discarded and whose side effects stay. -/
def Obligations.NopsComplete : Prop :=
  ∀ s : State,
    exec .nop s = .next (tick 2 s) ∧
    (∀ code, exec (.nopUndoc code .implied) s = .next (tick 2 s)) ∧
    (∀ (code : Byte) (o : Source) (v : Byte) (crossed : Bool) (t : State),
      (Instr.nopUndoc code (.read o)).wellFormed = true → readSource o s = .ok (v, crossed) t →
      exec (.nopUndoc code (.read o)) s =
        .next (tick (readCycles o crossed) { t with pc := t.pc + BitVec.ofNat 16 o.bytes.length }))

/-! ## Stack and flags (44_stack_and_flags.md) -/

/-- The primitives: a push stores at 0x0100 | SP and then decrements SP, a pull increments SP and then reads; a 16-bit value
goes high byte first and comes low byte first (R110, R111). Both wrap in page 1 and never fault. -/
def Obligations.PushPull : Prop :=
  ∀ (s : State) (v : Byte) (w : Addr),
    push v s = .ok () { s with ram := s.ram.write (0x100 + s.sp.toNat) v, sp := s.sp - 1 } ∧
    pull s = .ok (s.ram.read (0x100 + (s.sp + 1).toNat)) { s with sp := s.sp + 1 } ∧
    push16 w s = .ok () { s with
      ram := (s.ram.write (0x100 + s.sp.toNat) (highByte w)).write (0x100 + (s.sp - 1).toNat) (lowByte w)
      sp := s.sp - 2 } ∧
    pull16 s = .ok
      (addr16 (s.ram.read (0x100 + (s.sp + 2).toNat)) (s.ram.read (0x100 + (s.sp + 1).toNat))) { s with sp := s.sp + 2 }

/-- PHA, PLA, PHP and PLP (R320 to R323): PHP pushes B and U as 1, PLP clears B and sets U; and their codes. -/
def Obligations.StackOpsComplete : Prop :=
  ∀ s : State,
    exec .pha s = .next (tick 3 { s with ram := s.ram.write (stackIndex s.sp) s.a, sp := s.sp - 1 }) ∧
    exec .php s = .next (tick 3 { s with ram := s.ram.write (stackIndex s.sp) (s.p ||| 0x30), sp := s.sp - 1 }) ∧
    exec .pla s = .next (tick 4 { s with
      a := s.ram.read (stackIndex (s.sp + 1)), sp := s.sp + 1
      p := znBits s.p (s.ram.read (stackIndex (s.sp + 1))) }) ∧
    exec .plp s = .next (tick 4 { s with
      p := (s.ram.read (stackIndex (s.sp + 1)) &&& 0xEF) ||| 0x20, sp := s.sp + 1 }) ∧
    encode .pha = [0x48] ∧ encode .pla = [0x68] ∧ encode .php = [0x08] ∧ encode .plp = [0x28]

/-- CLC, SEC, CLI, SEI, CLD, SED and CLV (R330 to R336): one bit of P; and their codes. -/
def Obligations.FlagOpsComplete : Prop :=
  ∀ s : State,
    exec .clc s = .next (tick 2 { s with p := s.p &&& 0xFE }) ∧
    exec .sec s = .next (tick 2 { s with p := s.p ||| 0x01 }) ∧
    exec .cli s = .next (tick 2 { s with p := s.p &&& 0xFB }) ∧
    exec .sei s = .next (tick 2 { s with p := s.p ||| 0x04 }) ∧
    exec .cld s = .next (tick 2 { s with p := s.p &&& 0xF7 }) ∧
    exec .sed s = .next (tick 2 { s with p := s.p ||| 0x08 }) ∧
    exec .clv s = .next (tick 2 { s with p := s.p &&& 0xBF }) ∧
    encode .clc = [0x18] ∧ encode .sec = [0x38] ∧ encode .cli = [0x58] ∧ encode .sei = [0x78] ∧
    encode .cld = [0xD8] ∧ encode .sed = [0xF8] ∧ encode .clv = [0xB8]

/-! ## The bus (20_memory.md) -/

/-- Working RAM and its mirrors (R83): a byte written is read at all four of its addresses. -/
def Obligations.RamMirrors : Prop :=
  (∀ (a : Addr) (v : Byte) (s : State), a.toNat < 0x2000 →
    busRead a s = .ok (s.ram.read (a.toNat % 0x800)) s ∧
    busWrite a v s = .ok 0 { s with ram := s.ram.write (a.toNat % 0x800) v }) ∧
  (∀ (a : Addr) (v : Byte) (s t : State), a.toNat < 0x800 → busWrite a v s = .ok 0 t →
    busRead a t = .ok v t ∧ busRead (a + 0x800) t = .ok v t ∧ busRead (a + 0x1000) t = .ok v t ∧
    busRead (a + 0x1800) t = .ok v t)

/-- Unmapped addresses read 0x00 and ignore writes, PRG-RAM stores, and PRG-ROM reads with a 16 KB image twice (R88, R90,
R91). -/
def Obligations.PlainRegions : Prop :=
  ∀ (a : Addr) (v : Byte) (s : State),
    (0x4000 ≤ a.toNat ∧ a.toNat ≤ 0x4013 ∨ a.toNat = 0x4015 ∨ 0x4017 ≤ a.toNat ∧ a.toNat ≤ 0x5FFF →
      busRead a s = .ok 0x00 s ∧ busWrite a v s = .ok 0 s) ∧
    (0x6000 ≤ a.toNat ∧ a.toNat ≤ 0x7FFF →
      busRead a s = .ok (s.prgRam.read (a.toNat - 0x6000)) s ∧
      busWrite a v s = .ok 0 { s with prgRam := s.prgRam.write (a.toNat - 0x6000) v }) ∧
    (0x8000 ≤ a.toNat →
      busRead a s = .ok (s.prg.read ((a.toNat - 0x8000) % prgLength s.prgSize)) s)

/-- The illegal accesses of R93 fault in strict mode and leave the state they found, but RUN (R382, R386); in tolerant mode a
write changes no memory, a CHR-ROM write still advances PPUADDR, and a read gives some byte. The address recorded
for a CHR-ROM write is the CPU's (log 11); the count of drawn bytes is the model's (log 10). -/
def Obligations.IllegalAccesses : Prop :=
  ∀ (a : Addr) (v : Byte) (s : State),
    let inWindow := 0x2000 ≤ a.toNat ∧ a.toNat < 0x4000
    let stop := fun k => Fault.illegalAccess a k { s with run := .faulted (.illegalAccess a k) }
    (a.toNat = 0x4014 ∨ inWindow ∧ (a.toNat % 8 ≤ 1 ∨ a.toNat % 8 = 3 ∨ a.toNat % 8 = 5 ∨ a.toNat % 8 = 6) →
      (s.config.busMode = .strict → busRead a s = .fault (stop .read)) ∧
      (s.config.busMode = .tolerant → ∃ b, busRead a s = .ok b { s with draws := s.draws + 1 })) ∧
    (0x8000 ≤ a.toNat ∨ inWindow ∧ a.toNat % 8 = 2 →
      (s.config.busMode = .strict → busWrite a v s = .fault (stop .write)) ∧
      (s.config.busMode = .tolerant → busWrite a v s = .ok 0 s)) ∧
    (inWindow ∧ a.toNat % 8 = 7 ∧ s.ppu.chrRom = true ∧ s.ppu.vramAddr.toNat < 0x2000 →
      (s.config.busMode = .strict → busWrite a v s = .fault (stop .write)) ∧
      (s.config.busMode = .tolerant → busWrite a v s =
        .ok 0 { s with ppu := { s.ppu with
          vramAddr := s.ppu.vramAddr + (if s.ppu.ctrl.getLsbD 2 then 32 else 1) } }))

/-- Which reads have side effects, in either bus mode (R86, R93). Of the reads that complete, one of 0x2002 clears VBLANK and
W, one of 0x2007 advances PPUADDR and may reload READBUF, one of 0x4016 may advance CURSOR, an illegal one, which only
tolerant mode completes, moves the model's count of drawn bytes (log 10), and none of these changes anything else;
every other read changes nothing. -/
def Obligations.ReadSideEffects : Prop :=
  ∀ (a : Addr) (s t : State) (v : Byte), busRead a s = .ok v t →
    let inWindow := 0x2000 ≤ a.toNat ∧ a.toNat < 0x4000
    let reg := a.toNat % 8
    (inWindow ∧ reg = 2 → t = { s with ppu := { s.ppu with vblank := false, w := false } }) ∧
    (inWindow ∧ reg = 7 → t = { s with ppu := { s.ppu with
      vramAddr := s.ppu.vramAddr + (if s.ppu.ctrl.getLsbD 2 then 32 else 1), readBuf := t.ppu.readBuf } }) ∧
    (a.toNat = 0x4016 →
      t = { s with cursor := t.cursor } ∧ (t.cursor = s.cursor ∨ t.cursor = s.cursor + 1)) ∧
    (a.toNat = 0x4014 ∨ inWindow ∧ (reg ≤ 1 ∨ reg = 3 ∨ reg = 5 ∨ reg = 6) →
      s.config.busMode = .tolerant ∧ t = { s with draws := t.draws }) ∧
    (inWindow ∧ reg = 4 ∨ ¬inWindow ∧ a.toNat ≠ 0x4014 ∧ a.toNat ≠ 0x4016 → t = s)

/-- What a write stores to: no byte of any array changes but the one its address leads to, and no CPU register, no cycle
count and no run state changes (R86, R115, R122). -/
def Obligations.BusWriteFrame : Prop :=
  ∀ (a : Addr) (v : Byte) (s t : State) (stall : Nat), busWrite a v s = .ok stall t →
    (∀ (r : Space) (k : Nat), storesTo a s r k = false → t.byteAt r k = s.byteAt r k) ∧
    t.a = s.a ∧ t.x = s.x ∧ t.y = s.y ∧ t.sp = s.sp ∧ t.p = s.p ∧ t.pc = s.pc ∧ t.run = s.run ∧
    t.cycles = s.cycles ∧ t.ppu.scanline = s.ppu.scanline ∧ t.ppu.dot = s.ppu.dot

/-! ## The PPU registers (60_exceptions.md R402 to R411) and its address space (20_memory.md R100 to R106) -/

/-- The status, control and mask registers, at every mirror of the window (R84, R403, R404, R405). -/
def Obligations.StatusControlMask : Prop :=
  ∀ (a : Addr) (v : Byte) (s : State), 0x2000 ≤ a.toNat ∧ a.toNat < 0x4000 →
    (a.toNat % 8 = 2 → ∃ r, busRead a s = .ok r { s with ppu := { s.ppu with vblank := false, w := false } } ∧
      r.getLsbD 7 = s.ppu.vblank ∧ r.getLsbD 6 = s.ppu.sprite0Hit ∧ r.getLsbD 5 = s.ppu.overflow ∧
      r.toNat % 32 = 0) ∧
    (a.toNat % 8 = 0 → busWrite a v s =
      .ok 0 { s with ppu := { s.ppu with
        ctrl := v
        nmiPending := s.ppu.nmiPending || (!s.ppu.ctrl.getLsbD 7 && v.getLsbD 7 && s.ppu.vblank) } }) ∧
    (a.toNat % 8 = 1 → busWrite a v s = .ok 0 { s with ppu := { s.ppu with mask := v } })

/-- PPUSCROLL and PPUADDR share the toggle W (R64, R406): the first write sets SCROLL_X or the high six bits of PPUADDR, the
second SCROLL_Y or its low byte. -/
def Obligations.ScrollAndAddr : Prop :=
  ∀ (a : Addr) (v : Byte) (s : State), 0x2000 ≤ a.toNat ∧ a.toNat < 0x4000 →
    (a.toNat % 8 = 5 → busWrite a v s = .ok 0 { s with ppu :=
      if s.ppu.w then { s.ppu with scrollY := v, w := false } else { s.ppu with scrollX := v, w := true } }) ∧
    (a.toNat % 8 = 6 → ∃ q : VAddr,
      busWrite a v s = .ok 0 { s with ppu := { s.ppu with vramAddr := q, w := !s.ppu.w } } ∧
      q.toNat = if s.ppu.w then s.ppu.vramAddr.toNat / 256 * 256 + v.toNat
        else v.toNat % 64 * 256 + s.ppu.vramAddr.toNat % 256)

/-- The data port (R407, R408, R462): a read below the palette returns READBUF and refills it, a palette read is immediate, a
write stores at PPUADDR, and each access adds 1 or 32 to PPUADDR modulo 0x4000. A read that faults has advanced it,
a write that faults has not. -/
def Obligations.DataPort : Prop :=
  ∀ (a : Addr) (v : Byte) (s : State), 0x2000 ≤ a.toNat ∧ a.toNat < 0x4000 → a.toNat % 8 = 7 →
    let q := s.ppu.vramAddr
    let advanced : VAddr := q + (if s.ppu.ctrl.getLsbD 2 then 32 else 1)
    let s1 := { s with ppu := { s.ppu with vramAddr := advanced } }
    (0x3F00 ≤ q.toNat → ∀ b, ppuRead q s = .ok b s → busRead a s = .ok b s1) ∧
    (q.toNat < 0x3F00 → ∀ b, ppuRead q s = .ok b s →
      busRead a s = .ok s.ppu.readBuf { s with ppu := { s.ppu with vramAddr := advanced, readBuf := b } }) ∧
    (∀ f, ppuRead q s1 = .fault f → busRead a s = .fault f) ∧
    (∀ t, ppuWrite a q v s = .ok () t →
      busWrite a v s = .ok 0 { t with ppu := { t.ppu with vramAddr := advanced } }) ∧
    (∀ f, ppuWrite a q v s = .fault f → busWrite a v s = .fault f)

/-- The PPU address map (R101 to R105): CHR, the nametables folded by the mirroring, and the palette with its four redirected
entries; the two nametables that four-screen lacks fault. -/
def Obligations.PpuAddressMap : Prop :=
  ∀ (q : VAddr) (a : Addr) (v : Byte) (s : State),
    let nt := q.toNat % 0x1000 / 0x400
    let off := q.toNat % 0x400
    let k := q.toNat % 32
    let vramAt := fun index =>
      ppuRead q s = .ok (s.ppu.vram.read index) s ∧
      ppuWrite a q v s = .ok () { s with ppu := { s.ppu with vram := s.ppu.vram.write index v } }
    let paletteAt := fun index =>
      ppuRead q s = .ok (s.ppu.palette.read index) s ∧
      ppuWrite a q v s = .ok () { s with ppu := { s.ppu with palette := s.ppu.palette.write index v } }
    (q.toNat < 0x2000 →
      ppuRead q s = .ok (s.ppu.chr.read q.toNat) s ∧
      (s.ppu.chrRom = false →
        ppuWrite a q v s = .ok () { s with ppu := { s.ppu with chr := s.ppu.chr.write q.toNat v } })) ∧
    (0x2000 ≤ q.toNat → q.toNat < 0x3F00 →
      (s.ppu.mirroring = .horizontal → vramAt ((if nt < 2 then 0 else 0x400) + off)) ∧
      (s.ppu.mirroring = .vertical → vramAt ((if nt = 0 ∨ nt = 2 then 0 else 0x400) + off)) ∧
      (s.ppu.mirroring = .fourScreen → nt < 2 → vramAt (nt * 0x400 + off)) ∧
      (s.ppu.mirroring = .fourScreen → 2 ≤ nt →
        ppuRead q s = .fault (.unmodelled q { s with run := .faulted (.unmodelled q) }) ∧
        ppuWrite a q v s = .fault (.unmodelled q { s with run := .faulted (.unmodelled q) }))) ∧
    (0x3F00 ≤ q.toNat →
      (k = 0x10 ∨ k = 0x14 ∨ k = 0x18 ∨ k = 0x1C → paletteAt (k - 0x10)) ∧
      (k ≠ 0x10 → k ≠ 0x14 → k ≠ 0x18 → k ≠ 0x1C → paletteAt k))

/-- OAMADDR and OAMDATA (R409, R410): a write stores and advances the pointer modulo 256, a read changes nothing. -/
def Obligations.OamPort : Prop :=
  ∀ (a : Addr) (v : Byte) (s : State), 0x2000 ≤ a.toNat ∧ a.toNat < 0x4000 →
    (a.toNat % 8 = 3 → busWrite a v s = .ok 0 { s with ppu := { s.ppu with oamAddr := v } }) ∧
    (a.toNat % 8 = 4 →
      busRead a s = .ok (s.ppu.oam.read s.ppu.oamAddr.toNat) s ∧
      busWrite a v s = .ok 0 { s with ppu := { s.ppu with
        oam := s.ppu.oam.write s.ppu.oamAddr.toNat v, oamAddr := s.ppu.oamAddr + 1 } })

/-- OAM DMA (R411, R93, R386), by a write of v to 0x4014. From every page, in either bus mode, byte i is an ordinary bus read
of the page's address i, with its side effects, in increasing order; it lands at OAMADDR, which advances modulo 256; the
stall is OAM_DMA_STALL; and a read that faults ends the copy there, with what is copied already. So a page with no
device copies to OAMADDR + i and changes nothing else, 0x41 to 0x5F copy zeros; in strict mode a page of the PPU window
faults at its first byte and page 0x40 after 0x14 zeros; in tolerant mode these complete: 0x40 with the latch read
once, a PPU page with its 32 status and data-port reads. -/
def Obligations.OamDma : Prop :=
  ∀ (v : Byte) (s : State),
    let done := fun t : State => busWrite 0x4014 v s = .ok s.config.oamDmaStall t
    let stop := fun (a : Addr) (t : State) => busWrite 0x4014 v s =
      .fault (.illegalAccess a .read { t with run := .faulted (.illegalAccess a .read) })
    let inWindow := 0x20 ≤ v.toNat ∧ v.toNat < 0x40
    (∀ (n : Nat) (b : Nat → Byte) (before after : Nat → State), n ≤ 256 → before 0 = s →
      (∀ i, i < n →
        busRead (addr16 v (BitVec.ofNat 8 i)) (before i) = .ok (b i) (after i) ∧
        before (i + 1) = { after i with ppu := { (after i).ppu with
          oam := (after i).ppu.oam.write (after i).ppu.oamAddr.toNat (b i)
          oamAddr := (after i).ppu.oamAddr + 1 } }) →
      (n = 256 → done (before n)) ∧
      (∀ f, n < 256 → busRead (addr16 v (BitVec.ofNat 8 n)) (before n) = .fault f → busWrite 0x4014 v s = .fault f)) ∧
    (v.toNat < 0x20 ∨ 0x41 ≤ v.toNat → ∃ oam, done { s with ppu := { s.ppu with oam := oam } } ∧
      ∀ (i b : Byte), busRead (addr16 v i) s = .ok b s → oam.read (s.ppu.oamAddr + i).toNat = b) ∧
    (0x41 ≤ v.toNat ∧ v.toNat < 0x60 → ∃ oam, done { s with ppu := { s.ppu with oam := oam } } ∧
      ∀ k : Byte, oam.read k.toNat = 0x00) ∧
    (s.config.busMode = .strict →
      (inWindow → stop (addr16 v 0) s) ∧
      (v = 0x40 → ∃ oam,
        stop 0x4014 { s with ppu := { s.ppu with oam := oam, oamAddr := s.ppu.oamAddr + 0x14 } } ∧
        ∀ i : Byte, oam.read (s.ppu.oamAddr + i).toNat =
          if i.toNat < 0x14 then 0x00 else s.ppu.oam.read (s.ppu.oamAddr + i).toNat)) ∧
    (s.config.busMode = .tolerant →
      (inWindow → s.ppu.mirroring ≠ .fourScreen → ∃ oam readBuf draws,
        done { s with
          draws := draws
          ppu := { s.ppu with
            oam := oam, readBuf := readBuf, vblank := false, w := false
            vramAddr := s.ppu.vramAddr + 32 * (if s.ppu.ctrl.getLsbD 2 then 32 else 1) } }) ∧
      (v = 0x40 → ∃ oam draws,
        done { s with
          draws := draws
          cursor := if s.strobe = true ∨ 8 ≤ s.cursor then s.cursor else s.cursor + 1
          ppu := { s.ppu with oam := oam } } ∧
        ∀ i : Byte, i ≠ 0x14 → i ≠ 0x16 → oam.read (s.ppu.oamAddr + i).toNat = 0x00))

/-- The input latch (R54, R424, R426): a write sets STROBE from bit 0 and clears CURSOR when it is 1; a read gives the button at
CURSOR and advances it while STROBE is 0, and gives 1 after eight. -/
def Obligations.InputLatch : Prop :=
  ∀ (v : Byte) (s : State),
    busWrite 0x4016 v s = .ok 0 { s with
      strobe := v.getLsbD 0, cursor := if v.getLsbD 0 then 0 else s.cursor } ∧
    (8 ≤ s.cursor → busRead 0x4016 s = .ok 0x01 s) ∧
    (s.cursor < 8 → busRead 0x4016 s =
      .ok (if s.buttons.getLsbD s.cursor then 0x01 else 0x00)
        { s with cursor := if s.strobe then s.cursor else s.cursor + 1 })
end

