-- ==== Sys2Proof/Laws/State.lean ====
section
/-! SUPPORT. One lemma per field and named update of State, the composed updates of P, and the two result
types' sequencing lemmas. -/

namespace Sys2Proof.Machine.State

section updates
variable (s : State)

/-! `setA` -/

@[simp] theorem setA_a (v : Byte) : (s.setA v).a = v := rfl
@[simp] theorem setA_x (v : Byte) : (s.setA v).x = s.x := rfl
@[simp] theorem setA_y (v : Byte) : (s.setA v).y = s.y := rfl
@[simp] theorem setA_sp (v : Byte) : (s.setA v).sp = s.sp := rfl
@[simp] theorem setA_p (v : Byte) : (s.setA v).p = s.p := rfl
@[simp] theorem setA_pc (v : Byte) : (s.setA v).pc = s.pc := rfl
@[simp] theorem setA_run (v : Byte) : (s.setA v).run = s.run := rfl
@[simp] theorem setA_ram (v : Byte) : (s.setA v).ram = s.ram := rfl
@[simp] theorem setA_prgRam (v : Byte) : (s.setA v).prgRam = s.prgRam := rfl
@[simp] theorem setA_prg (v : Byte) : (s.setA v).prg = s.prg := rfl
@[simp] theorem setA_prgSize (v : Byte) : (s.setA v).prgSize = s.prgSize := rfl
@[simp] theorem setA_cycles (v : Byte) : (s.setA v).cycles = s.cycles := rfl
@[simp] theorem setA_strobe (v : Byte) : (s.setA v).strobe = s.strobe := rfl
@[simp] theorem setA_cursor (v : Byte) : (s.setA v).cursor = s.cursor := rfl
@[simp] theorem setA_buttons (v : Byte) : (s.setA v).buttons = s.buttons := rfl
@[simp] theorem setA_ppu (v : Byte) : (s.setA v).ppu = s.ppu := rfl
@[simp] theorem setA_config (v : Byte) : (s.setA v).config = s.config := rfl
@[simp] theorem setA_draws (v : Byte) : (s.setA v).draws = s.draws := rfl
@[simp] theorem setA_frameEvent (v : Byte) : (s.setA v).frameEvent = s.frameEvent := rfl
@[simp] theorem setA_frameComplete (v : Byte) : (s.setA v).frameComplete = s.frameComplete := rfl

/-! `setX` -/

@[simp] theorem setX_a (v : Byte) : (s.setX v).a = s.a := rfl
@[simp] theorem setX_x (v : Byte) : (s.setX v).x = v := rfl
@[simp] theorem setX_y (v : Byte) : (s.setX v).y = s.y := rfl
@[simp] theorem setX_sp (v : Byte) : (s.setX v).sp = s.sp := rfl
@[simp] theorem setX_p (v : Byte) : (s.setX v).p = s.p := rfl
@[simp] theorem setX_pc (v : Byte) : (s.setX v).pc = s.pc := rfl
@[simp] theorem setX_run (v : Byte) : (s.setX v).run = s.run := rfl
@[simp] theorem setX_ram (v : Byte) : (s.setX v).ram = s.ram := rfl
@[simp] theorem setX_prgRam (v : Byte) : (s.setX v).prgRam = s.prgRam := rfl
@[simp] theorem setX_prg (v : Byte) : (s.setX v).prg = s.prg := rfl
@[simp] theorem setX_prgSize (v : Byte) : (s.setX v).prgSize = s.prgSize := rfl
@[simp] theorem setX_cycles (v : Byte) : (s.setX v).cycles = s.cycles := rfl
@[simp] theorem setX_strobe (v : Byte) : (s.setX v).strobe = s.strobe := rfl
@[simp] theorem setX_cursor (v : Byte) : (s.setX v).cursor = s.cursor := rfl
@[simp] theorem setX_buttons (v : Byte) : (s.setX v).buttons = s.buttons := rfl
@[simp] theorem setX_ppu (v : Byte) : (s.setX v).ppu = s.ppu := rfl
@[simp] theorem setX_config (v : Byte) : (s.setX v).config = s.config := rfl
@[simp] theorem setX_draws (v : Byte) : (s.setX v).draws = s.draws := rfl
@[simp] theorem setX_frameEvent (v : Byte) : (s.setX v).frameEvent = s.frameEvent := rfl
@[simp] theorem setX_frameComplete (v : Byte) : (s.setX v).frameComplete = s.frameComplete := rfl

/-! `setY` -/

@[simp] theorem setY_a (v : Byte) : (s.setY v).a = s.a := rfl
@[simp] theorem setY_x (v : Byte) : (s.setY v).x = s.x := rfl
@[simp] theorem setY_y (v : Byte) : (s.setY v).y = v := rfl
@[simp] theorem setY_sp (v : Byte) : (s.setY v).sp = s.sp := rfl
@[simp] theorem setY_p (v : Byte) : (s.setY v).p = s.p := rfl
@[simp] theorem setY_pc (v : Byte) : (s.setY v).pc = s.pc := rfl
@[simp] theorem setY_run (v : Byte) : (s.setY v).run = s.run := rfl
@[simp] theorem setY_ram (v : Byte) : (s.setY v).ram = s.ram := rfl
@[simp] theorem setY_prgRam (v : Byte) : (s.setY v).prgRam = s.prgRam := rfl
@[simp] theorem setY_prg (v : Byte) : (s.setY v).prg = s.prg := rfl
@[simp] theorem setY_prgSize (v : Byte) : (s.setY v).prgSize = s.prgSize := rfl
@[simp] theorem setY_cycles (v : Byte) : (s.setY v).cycles = s.cycles := rfl
@[simp] theorem setY_strobe (v : Byte) : (s.setY v).strobe = s.strobe := rfl
@[simp] theorem setY_cursor (v : Byte) : (s.setY v).cursor = s.cursor := rfl
@[simp] theorem setY_buttons (v : Byte) : (s.setY v).buttons = s.buttons := rfl
@[simp] theorem setY_ppu (v : Byte) : (s.setY v).ppu = s.ppu := rfl
@[simp] theorem setY_config (v : Byte) : (s.setY v).config = s.config := rfl
@[simp] theorem setY_draws (v : Byte) : (s.setY v).draws = s.draws := rfl
@[simp] theorem setY_frameEvent (v : Byte) : (s.setY v).frameEvent = s.frameEvent := rfl
@[simp] theorem setY_frameComplete (v : Byte) : (s.setY v).frameComplete = s.frameComplete := rfl

/-! `setSp` -/

@[simp] theorem setSp_a (v : Byte) : (s.setSp v).a = s.a := rfl
@[simp] theorem setSp_x (v : Byte) : (s.setSp v).x = s.x := rfl
@[simp] theorem setSp_y (v : Byte) : (s.setSp v).y = s.y := rfl
@[simp] theorem setSp_sp (v : Byte) : (s.setSp v).sp = v := rfl
@[simp] theorem setSp_p (v : Byte) : (s.setSp v).p = s.p := rfl
@[simp] theorem setSp_pc (v : Byte) : (s.setSp v).pc = s.pc := rfl
@[simp] theorem setSp_run (v : Byte) : (s.setSp v).run = s.run := rfl
@[simp] theorem setSp_ram (v : Byte) : (s.setSp v).ram = s.ram := rfl
@[simp] theorem setSp_prgRam (v : Byte) : (s.setSp v).prgRam = s.prgRam := rfl
@[simp] theorem setSp_prg (v : Byte) : (s.setSp v).prg = s.prg := rfl
@[simp] theorem setSp_prgSize (v : Byte) : (s.setSp v).prgSize = s.prgSize := rfl
@[simp] theorem setSp_cycles (v : Byte) : (s.setSp v).cycles = s.cycles := rfl
@[simp] theorem setSp_strobe (v : Byte) : (s.setSp v).strobe = s.strobe := rfl
@[simp] theorem setSp_cursor (v : Byte) : (s.setSp v).cursor = s.cursor := rfl
@[simp] theorem setSp_buttons (v : Byte) : (s.setSp v).buttons = s.buttons := rfl
@[simp] theorem setSp_ppu (v : Byte) : (s.setSp v).ppu = s.ppu := rfl
@[simp] theorem setSp_config (v : Byte) : (s.setSp v).config = s.config := rfl
@[simp] theorem setSp_draws (v : Byte) : (s.setSp v).draws = s.draws := rfl
@[simp] theorem setSp_frameEvent (v : Byte) : (s.setSp v).frameEvent = s.frameEvent := rfl
@[simp] theorem setSp_frameComplete (v : Byte) : (s.setSp v).frameComplete = s.frameComplete := rfl

/-! `setP` -/

@[simp] theorem setP_a (v : Byte) : (s.setP v).a = s.a := rfl
@[simp] theorem setP_x (v : Byte) : (s.setP v).x = s.x := rfl
@[simp] theorem setP_y (v : Byte) : (s.setP v).y = s.y := rfl
@[simp] theorem setP_sp (v : Byte) : (s.setP v).sp = s.sp := rfl
@[simp] theorem setP_p (v : Byte) : (s.setP v).p = v := rfl
@[simp] theorem setP_pc (v : Byte) : (s.setP v).pc = s.pc := rfl
@[simp] theorem setP_run (v : Byte) : (s.setP v).run = s.run := rfl
@[simp] theorem setP_ram (v : Byte) : (s.setP v).ram = s.ram := rfl
@[simp] theorem setP_prgRam (v : Byte) : (s.setP v).prgRam = s.prgRam := rfl
@[simp] theorem setP_prg (v : Byte) : (s.setP v).prg = s.prg := rfl
@[simp] theorem setP_prgSize (v : Byte) : (s.setP v).prgSize = s.prgSize := rfl
@[simp] theorem setP_cycles (v : Byte) : (s.setP v).cycles = s.cycles := rfl
@[simp] theorem setP_strobe (v : Byte) : (s.setP v).strobe = s.strobe := rfl
@[simp] theorem setP_cursor (v : Byte) : (s.setP v).cursor = s.cursor := rfl
@[simp] theorem setP_buttons (v : Byte) : (s.setP v).buttons = s.buttons := rfl
@[simp] theorem setP_ppu (v : Byte) : (s.setP v).ppu = s.ppu := rfl
@[simp] theorem setP_config (v : Byte) : (s.setP v).config = s.config := rfl
@[simp] theorem setP_draws (v : Byte) : (s.setP v).draws = s.draws := rfl
@[simp] theorem setP_frameEvent (v : Byte) : (s.setP v).frameEvent = s.frameEvent := rfl
@[simp] theorem setP_frameComplete (v : Byte) : (s.setP v).frameComplete = s.frameComplete := rfl

/-! `setPc` -/

@[simp] theorem setPc_a (v : Addr) : (s.setPc v).a = s.a := rfl
@[simp] theorem setPc_x (v : Addr) : (s.setPc v).x = s.x := rfl
@[simp] theorem setPc_y (v : Addr) : (s.setPc v).y = s.y := rfl
@[simp] theorem setPc_sp (v : Addr) : (s.setPc v).sp = s.sp := rfl
@[simp] theorem setPc_p (v : Addr) : (s.setPc v).p = s.p := rfl
@[simp] theorem setPc_pc (v : Addr) : (s.setPc v).pc = v := rfl
@[simp] theorem setPc_run (v : Addr) : (s.setPc v).run = s.run := rfl
@[simp] theorem setPc_ram (v : Addr) : (s.setPc v).ram = s.ram := rfl
@[simp] theorem setPc_prgRam (v : Addr) : (s.setPc v).prgRam = s.prgRam := rfl
@[simp] theorem setPc_prg (v : Addr) : (s.setPc v).prg = s.prg := rfl
@[simp] theorem setPc_prgSize (v : Addr) : (s.setPc v).prgSize = s.prgSize := rfl
@[simp] theorem setPc_cycles (v : Addr) : (s.setPc v).cycles = s.cycles := rfl
@[simp] theorem setPc_strobe (v : Addr) : (s.setPc v).strobe = s.strobe := rfl
@[simp] theorem setPc_cursor (v : Addr) : (s.setPc v).cursor = s.cursor := rfl
@[simp] theorem setPc_buttons (v : Addr) : (s.setPc v).buttons = s.buttons := rfl
@[simp] theorem setPc_ppu (v : Addr) : (s.setPc v).ppu = s.ppu := rfl
@[simp] theorem setPc_config (v : Addr) : (s.setPc v).config = s.config := rfl
@[simp] theorem setPc_draws (v : Addr) : (s.setPc v).draws = s.draws := rfl
@[simp] theorem setPc_frameEvent (v : Addr) : (s.setPc v).frameEvent = s.frameEvent := rfl
@[simp] theorem setPc_frameComplete (v : Addr) : (s.setPc v).frameComplete = s.frameComplete := rfl

/-! `setRun` -/

@[simp] theorem setRun_a (v : Run) : (s.setRun v).a = s.a := rfl
@[simp] theorem setRun_x (v : Run) : (s.setRun v).x = s.x := rfl
@[simp] theorem setRun_y (v : Run) : (s.setRun v).y = s.y := rfl
@[simp] theorem setRun_sp (v : Run) : (s.setRun v).sp = s.sp := rfl
@[simp] theorem setRun_p (v : Run) : (s.setRun v).p = s.p := rfl
@[simp] theorem setRun_pc (v : Run) : (s.setRun v).pc = s.pc := rfl
@[simp] theorem setRun_run (v : Run) : (s.setRun v).run = v := rfl
@[simp] theorem setRun_ram (v : Run) : (s.setRun v).ram = s.ram := rfl
@[simp] theorem setRun_prgRam (v : Run) : (s.setRun v).prgRam = s.prgRam := rfl
@[simp] theorem setRun_prg (v : Run) : (s.setRun v).prg = s.prg := rfl
@[simp] theorem setRun_prgSize (v : Run) : (s.setRun v).prgSize = s.prgSize := rfl
@[simp] theorem setRun_cycles (v : Run) : (s.setRun v).cycles = s.cycles := rfl
@[simp] theorem setRun_strobe (v : Run) : (s.setRun v).strobe = s.strobe := rfl
@[simp] theorem setRun_cursor (v : Run) : (s.setRun v).cursor = s.cursor := rfl
@[simp] theorem setRun_buttons (v : Run) : (s.setRun v).buttons = s.buttons := rfl
@[simp] theorem setRun_ppu (v : Run) : (s.setRun v).ppu = s.ppu := rfl
@[simp] theorem setRun_config (v : Run) : (s.setRun v).config = s.config := rfl
@[simp] theorem setRun_draws (v : Run) : (s.setRun v).draws = s.draws := rfl
@[simp] theorem setRun_frameEvent (v : Run) : (s.setRun v).frameEvent = s.frameEvent := rfl
@[simp] theorem setRun_frameComplete (v : Run) : (s.setRun v).frameComplete = s.frameComplete := rfl

/-! `setRam` -/

@[simp] theorem setRam_a (v : Memory) : (s.setRam v).a = s.a := rfl
@[simp] theorem setRam_x (v : Memory) : (s.setRam v).x = s.x := rfl
@[simp] theorem setRam_y (v : Memory) : (s.setRam v).y = s.y := rfl
@[simp] theorem setRam_sp (v : Memory) : (s.setRam v).sp = s.sp := rfl
@[simp] theorem setRam_p (v : Memory) : (s.setRam v).p = s.p := rfl
@[simp] theorem setRam_pc (v : Memory) : (s.setRam v).pc = s.pc := rfl
@[simp] theorem setRam_run (v : Memory) : (s.setRam v).run = s.run := rfl
@[simp] theorem setRam_ram (v : Memory) : (s.setRam v).ram = v := rfl
@[simp] theorem setRam_prgRam (v : Memory) : (s.setRam v).prgRam = s.prgRam := rfl
@[simp] theorem setRam_prg (v : Memory) : (s.setRam v).prg = s.prg := rfl
@[simp] theorem setRam_prgSize (v : Memory) : (s.setRam v).prgSize = s.prgSize := rfl
@[simp] theorem setRam_cycles (v : Memory) : (s.setRam v).cycles = s.cycles := rfl
@[simp] theorem setRam_strobe (v : Memory) : (s.setRam v).strobe = s.strobe := rfl
@[simp] theorem setRam_cursor (v : Memory) : (s.setRam v).cursor = s.cursor := rfl
@[simp] theorem setRam_buttons (v : Memory) : (s.setRam v).buttons = s.buttons := rfl
@[simp] theorem setRam_ppu (v : Memory) : (s.setRam v).ppu = s.ppu := rfl
@[simp] theorem setRam_config (v : Memory) : (s.setRam v).config = s.config := rfl
@[simp] theorem setRam_draws (v : Memory) : (s.setRam v).draws = s.draws := rfl
@[simp] theorem setRam_frameEvent (v : Memory) : (s.setRam v).frameEvent = s.frameEvent := rfl
@[simp] theorem setRam_frameComplete (v : Memory) : (s.setRam v).frameComplete = s.frameComplete := rfl

/-! `setPrgRam` -/

@[simp] theorem setPrgRam_a (v : Memory) : (s.setPrgRam v).a = s.a := rfl
@[simp] theorem setPrgRam_x (v : Memory) : (s.setPrgRam v).x = s.x := rfl
@[simp] theorem setPrgRam_y (v : Memory) : (s.setPrgRam v).y = s.y := rfl
@[simp] theorem setPrgRam_sp (v : Memory) : (s.setPrgRam v).sp = s.sp := rfl
@[simp] theorem setPrgRam_p (v : Memory) : (s.setPrgRam v).p = s.p := rfl
@[simp] theorem setPrgRam_pc (v : Memory) : (s.setPrgRam v).pc = s.pc := rfl
@[simp] theorem setPrgRam_run (v : Memory) : (s.setPrgRam v).run = s.run := rfl
@[simp] theorem setPrgRam_ram (v : Memory) : (s.setPrgRam v).ram = s.ram := rfl
@[simp] theorem setPrgRam_prgRam (v : Memory) : (s.setPrgRam v).prgRam = v := rfl
@[simp] theorem setPrgRam_prg (v : Memory) : (s.setPrgRam v).prg = s.prg := rfl
@[simp] theorem setPrgRam_prgSize (v : Memory) : (s.setPrgRam v).prgSize = s.prgSize := rfl
@[simp] theorem setPrgRam_cycles (v : Memory) : (s.setPrgRam v).cycles = s.cycles := rfl
@[simp] theorem setPrgRam_strobe (v : Memory) : (s.setPrgRam v).strobe = s.strobe := rfl
@[simp] theorem setPrgRam_cursor (v : Memory) : (s.setPrgRam v).cursor = s.cursor := rfl
@[simp] theorem setPrgRam_buttons (v : Memory) : (s.setPrgRam v).buttons = s.buttons := rfl
@[simp] theorem setPrgRam_ppu (v : Memory) : (s.setPrgRam v).ppu = s.ppu := rfl
@[simp] theorem setPrgRam_config (v : Memory) : (s.setPrgRam v).config = s.config := rfl
@[simp] theorem setPrgRam_draws (v : Memory) : (s.setPrgRam v).draws = s.draws := rfl
@[simp] theorem setPrgRam_frameEvent (v : Memory) : (s.setPrgRam v).frameEvent = s.frameEvent := rfl
@[simp] theorem setPrgRam_frameComplete (v : Memory) : (s.setPrgRam v).frameComplete = s.frameComplete := rfl

/-! `setPpu` -/

@[simp] theorem setPpu_a (v : Ppu) : (s.setPpu v).a = s.a := rfl
@[simp] theorem setPpu_x (v : Ppu) : (s.setPpu v).x = s.x := rfl
@[simp] theorem setPpu_y (v : Ppu) : (s.setPpu v).y = s.y := rfl
@[simp] theorem setPpu_sp (v : Ppu) : (s.setPpu v).sp = s.sp := rfl
@[simp] theorem setPpu_p (v : Ppu) : (s.setPpu v).p = s.p := rfl
@[simp] theorem setPpu_pc (v : Ppu) : (s.setPpu v).pc = s.pc := rfl
@[simp] theorem setPpu_run (v : Ppu) : (s.setPpu v).run = s.run := rfl
@[simp] theorem setPpu_ram (v : Ppu) : (s.setPpu v).ram = s.ram := rfl
@[simp] theorem setPpu_prgRam (v : Ppu) : (s.setPpu v).prgRam = s.prgRam := rfl
@[simp] theorem setPpu_prg (v : Ppu) : (s.setPpu v).prg = s.prg := rfl
@[simp] theorem setPpu_prgSize (v : Ppu) : (s.setPpu v).prgSize = s.prgSize := rfl
@[simp] theorem setPpu_cycles (v : Ppu) : (s.setPpu v).cycles = s.cycles := rfl
@[simp] theorem setPpu_strobe (v : Ppu) : (s.setPpu v).strobe = s.strobe := rfl
@[simp] theorem setPpu_cursor (v : Ppu) : (s.setPpu v).cursor = s.cursor := rfl
@[simp] theorem setPpu_buttons (v : Ppu) : (s.setPpu v).buttons = s.buttons := rfl
@[simp] theorem setPpu_ppu (v : Ppu) : (s.setPpu v).ppu = v := rfl
@[simp] theorem setPpu_config (v : Ppu) : (s.setPpu v).config = s.config := rfl
@[simp] theorem setPpu_draws (v : Ppu) : (s.setPpu v).draws = s.draws := rfl
@[simp] theorem setPpu_frameEvent (v : Ppu) : (s.setPpu v).frameEvent = s.frameEvent := rfl
@[simp] theorem setPpu_frameComplete (v : Ppu) : (s.setPpu v).frameComplete = s.frameComplete := rfl

/-! `setStrobe` -/

@[simp] theorem setStrobe_a (v : Bool) : (s.setStrobe v).a = s.a := rfl
@[simp] theorem setStrobe_x (v : Bool) : (s.setStrobe v).x = s.x := rfl
@[simp] theorem setStrobe_y (v : Bool) : (s.setStrobe v).y = s.y := rfl
@[simp] theorem setStrobe_sp (v : Bool) : (s.setStrobe v).sp = s.sp := rfl
@[simp] theorem setStrobe_p (v : Bool) : (s.setStrobe v).p = s.p := rfl
@[simp] theorem setStrobe_pc (v : Bool) : (s.setStrobe v).pc = s.pc := rfl
@[simp] theorem setStrobe_run (v : Bool) : (s.setStrobe v).run = s.run := rfl
@[simp] theorem setStrobe_ram (v : Bool) : (s.setStrobe v).ram = s.ram := rfl
@[simp] theorem setStrobe_prgRam (v : Bool) : (s.setStrobe v).prgRam = s.prgRam := rfl
@[simp] theorem setStrobe_prg (v : Bool) : (s.setStrobe v).prg = s.prg := rfl
@[simp] theorem setStrobe_prgSize (v : Bool) : (s.setStrobe v).prgSize = s.prgSize := rfl
@[simp] theorem setStrobe_cycles (v : Bool) : (s.setStrobe v).cycles = s.cycles := rfl
@[simp] theorem setStrobe_strobe (v : Bool) : (s.setStrobe v).strobe = v := rfl
@[simp] theorem setStrobe_cursor (v : Bool) : (s.setStrobe v).cursor = s.cursor := rfl
@[simp] theorem setStrobe_buttons (v : Bool) : (s.setStrobe v).buttons = s.buttons := rfl
@[simp] theorem setStrobe_ppu (v : Bool) : (s.setStrobe v).ppu = s.ppu := rfl
@[simp] theorem setStrobe_config (v : Bool) : (s.setStrobe v).config = s.config := rfl
@[simp] theorem setStrobe_draws (v : Bool) : (s.setStrobe v).draws = s.draws := rfl
@[simp] theorem setStrobe_frameEvent (v : Bool) : (s.setStrobe v).frameEvent = s.frameEvent := rfl
@[simp] theorem setStrobe_frameComplete (v : Bool) : (s.setStrobe v).frameComplete = s.frameComplete := rfl

/-! `setCursor` -/

@[simp] theorem setCursor_a (v : Nat) : (s.setCursor v).a = s.a := rfl
@[simp] theorem setCursor_x (v : Nat) : (s.setCursor v).x = s.x := rfl
@[simp] theorem setCursor_y (v : Nat) : (s.setCursor v).y = s.y := rfl
@[simp] theorem setCursor_sp (v : Nat) : (s.setCursor v).sp = s.sp := rfl
@[simp] theorem setCursor_p (v : Nat) : (s.setCursor v).p = s.p := rfl
@[simp] theorem setCursor_pc (v : Nat) : (s.setCursor v).pc = s.pc := rfl
@[simp] theorem setCursor_run (v : Nat) : (s.setCursor v).run = s.run := rfl
@[simp] theorem setCursor_ram (v : Nat) : (s.setCursor v).ram = s.ram := rfl
@[simp] theorem setCursor_prgRam (v : Nat) : (s.setCursor v).prgRam = s.prgRam := rfl
@[simp] theorem setCursor_prg (v : Nat) : (s.setCursor v).prg = s.prg := rfl
@[simp] theorem setCursor_prgSize (v : Nat) : (s.setCursor v).prgSize = s.prgSize := rfl
@[simp] theorem setCursor_cycles (v : Nat) : (s.setCursor v).cycles = s.cycles := rfl
@[simp] theorem setCursor_strobe (v : Nat) : (s.setCursor v).strobe = s.strobe := rfl
@[simp] theorem setCursor_cursor (v : Nat) : (s.setCursor v).cursor = v := rfl
@[simp] theorem setCursor_buttons (v : Nat) : (s.setCursor v).buttons = s.buttons := rfl
@[simp] theorem setCursor_ppu (v : Nat) : (s.setCursor v).ppu = s.ppu := rfl
@[simp] theorem setCursor_config (v : Nat) : (s.setCursor v).config = s.config := rfl
@[simp] theorem setCursor_draws (v : Nat) : (s.setCursor v).draws = s.draws := rfl
@[simp] theorem setCursor_frameEvent (v : Nat) : (s.setCursor v).frameEvent = s.frameEvent := rfl
@[simp] theorem setCursor_frameComplete (v : Nat) : (s.setCursor v).frameComplete = s.frameComplete := rfl

/-! `setDraws` -/

@[simp] theorem setDraws_a (v : Nat) : (s.setDraws v).a = s.a := rfl
@[simp] theorem setDraws_x (v : Nat) : (s.setDraws v).x = s.x := rfl
@[simp] theorem setDraws_y (v : Nat) : (s.setDraws v).y = s.y := rfl
@[simp] theorem setDraws_sp (v : Nat) : (s.setDraws v).sp = s.sp := rfl
@[simp] theorem setDraws_p (v : Nat) : (s.setDraws v).p = s.p := rfl
@[simp] theorem setDraws_pc (v : Nat) : (s.setDraws v).pc = s.pc := rfl
@[simp] theorem setDraws_run (v : Nat) : (s.setDraws v).run = s.run := rfl
@[simp] theorem setDraws_ram (v : Nat) : (s.setDraws v).ram = s.ram := rfl
@[simp] theorem setDraws_prgRam (v : Nat) : (s.setDraws v).prgRam = s.prgRam := rfl
@[simp] theorem setDraws_prg (v : Nat) : (s.setDraws v).prg = s.prg := rfl
@[simp] theorem setDraws_prgSize (v : Nat) : (s.setDraws v).prgSize = s.prgSize := rfl
@[simp] theorem setDraws_cycles (v : Nat) : (s.setDraws v).cycles = s.cycles := rfl
@[simp] theorem setDraws_strobe (v : Nat) : (s.setDraws v).strobe = s.strobe := rfl
@[simp] theorem setDraws_cursor (v : Nat) : (s.setDraws v).cursor = s.cursor := rfl
@[simp] theorem setDraws_buttons (v : Nat) : (s.setDraws v).buttons = s.buttons := rfl
@[simp] theorem setDraws_ppu (v : Nat) : (s.setDraws v).ppu = s.ppu := rfl
@[simp] theorem setDraws_config (v : Nat) : (s.setDraws v).config = s.config := rfl
@[simp] theorem setDraws_draws (v : Nat) : (s.setDraws v).draws = v := rfl
@[simp] theorem setDraws_frameEvent (v : Nat) : (s.setDraws v).frameEvent = s.frameEvent := rfl
@[simp] theorem setDraws_frameComplete (v : Nat) : (s.setDraws v).frameComplete = s.frameComplete := rfl

/-! `setCycles` -/

@[simp] theorem setCycles_a (v : Nat) : (s.setCycles v).a = s.a := rfl
@[simp] theorem setCycles_x (v : Nat) : (s.setCycles v).x = s.x := rfl
@[simp] theorem setCycles_y (v : Nat) : (s.setCycles v).y = s.y := rfl
@[simp] theorem setCycles_sp (v : Nat) : (s.setCycles v).sp = s.sp := rfl
@[simp] theorem setCycles_p (v : Nat) : (s.setCycles v).p = s.p := rfl
@[simp] theorem setCycles_pc (v : Nat) : (s.setCycles v).pc = s.pc := rfl
@[simp] theorem setCycles_run (v : Nat) : (s.setCycles v).run = s.run := rfl
@[simp] theorem setCycles_ram (v : Nat) : (s.setCycles v).ram = s.ram := rfl
@[simp] theorem setCycles_prgRam (v : Nat) : (s.setCycles v).prgRam = s.prgRam := rfl
@[simp] theorem setCycles_prg (v : Nat) : (s.setCycles v).prg = s.prg := rfl
@[simp] theorem setCycles_prgSize (v : Nat) : (s.setCycles v).prgSize = s.prgSize := rfl
@[simp] theorem setCycles_cycles (v : Nat) : (s.setCycles v).cycles = v := rfl
@[simp] theorem setCycles_strobe (v : Nat) : (s.setCycles v).strobe = s.strobe := rfl
@[simp] theorem setCycles_cursor (v : Nat) : (s.setCycles v).cursor = s.cursor := rfl
@[simp] theorem setCycles_buttons (v : Nat) : (s.setCycles v).buttons = s.buttons := rfl
@[simp] theorem setCycles_ppu (v : Nat) : (s.setCycles v).ppu = s.ppu := rfl
@[simp] theorem setCycles_config (v : Nat) : (s.setCycles v).config = s.config := rfl
@[simp] theorem setCycles_draws (v : Nat) : (s.setCycles v).draws = s.draws := rfl
@[simp] theorem setCycles_frameEvent (v : Nat) : (s.setCycles v).frameEvent = s.frameEvent := rfl
@[simp] theorem setCycles_frameComplete (v : Nat) : (s.setCycles v).frameComplete = s.frameComplete := rfl

/-! `setReport` -/

@[simp] theorem setReport_a (v w : Bool) : (s.setReport v w).a = s.a := rfl
@[simp] theorem setReport_x (v w : Bool) : (s.setReport v w).x = s.x := rfl
@[simp] theorem setReport_y (v w : Bool) : (s.setReport v w).y = s.y := rfl
@[simp] theorem setReport_sp (v w : Bool) : (s.setReport v w).sp = s.sp := rfl
@[simp] theorem setReport_p (v w : Bool) : (s.setReport v w).p = s.p := rfl
@[simp] theorem setReport_pc (v w : Bool) : (s.setReport v w).pc = s.pc := rfl
@[simp] theorem setReport_run (v w : Bool) : (s.setReport v w).run = s.run := rfl
@[simp] theorem setReport_ram (v w : Bool) : (s.setReport v w).ram = s.ram := rfl
@[simp] theorem setReport_prgRam (v w : Bool) : (s.setReport v w).prgRam = s.prgRam := rfl
@[simp] theorem setReport_prg (v w : Bool) : (s.setReport v w).prg = s.prg := rfl
@[simp] theorem setReport_prgSize (v w : Bool) : (s.setReport v w).prgSize = s.prgSize := rfl
@[simp] theorem setReport_cycles (v w : Bool) : (s.setReport v w).cycles = s.cycles := rfl
@[simp] theorem setReport_strobe (v w : Bool) : (s.setReport v w).strobe = s.strobe := rfl
@[simp] theorem setReport_cursor (v w : Bool) : (s.setReport v w).cursor = s.cursor := rfl
@[simp] theorem setReport_buttons (v w : Bool) : (s.setReport v w).buttons = s.buttons := rfl
@[simp] theorem setReport_ppu (v w : Bool) : (s.setReport v w).ppu = s.ppu := rfl
@[simp] theorem setReport_config (v w : Bool) : (s.setReport v w).config = s.config := rfl
@[simp] theorem setReport_draws (v w : Bool) : (s.setReport v w).draws = s.draws := rfl
@[simp] theorem setReport_frameEvent (v w : Bool) : (s.setReport v w).frameEvent = v := rfl
@[simp] theorem setReport_frameComplete (v w : Bool) : (s.setReport v w).frameComplete = w := rfl

/-! `setFlag` -/

@[simp] theorem setFlag_a (f : Flag) (b : Bool) : (s.setFlag f b).a = s.a := rfl
@[simp] theorem setFlag_x (f : Flag) (b : Bool) : (s.setFlag f b).x = s.x := rfl
@[simp] theorem setFlag_y (f : Flag) (b : Bool) : (s.setFlag f b).y = s.y := rfl
@[simp] theorem setFlag_sp (f : Flag) (b : Bool) : (s.setFlag f b).sp = s.sp := rfl
@[simp] theorem setFlag_p (f : Flag) (b : Bool) : (s.setFlag f b).p = withFlag s.p f b := rfl
@[simp] theorem setFlag_pc (f : Flag) (b : Bool) : (s.setFlag f b).pc = s.pc := rfl
@[simp] theorem setFlag_run (f : Flag) (b : Bool) : (s.setFlag f b).run = s.run := rfl
@[simp] theorem setFlag_ram (f : Flag) (b : Bool) : (s.setFlag f b).ram = s.ram := rfl
@[simp] theorem setFlag_prgRam (f : Flag) (b : Bool) : (s.setFlag f b).prgRam = s.prgRam := rfl
@[simp] theorem setFlag_prg (f : Flag) (b : Bool) : (s.setFlag f b).prg = s.prg := rfl
@[simp] theorem setFlag_prgSize (f : Flag) (b : Bool) : (s.setFlag f b).prgSize = s.prgSize := rfl
@[simp] theorem setFlag_cycles (f : Flag) (b : Bool) : (s.setFlag f b).cycles = s.cycles := rfl
@[simp] theorem setFlag_strobe (f : Flag) (b : Bool) : (s.setFlag f b).strobe = s.strobe := rfl
@[simp] theorem setFlag_cursor (f : Flag) (b : Bool) : (s.setFlag f b).cursor = s.cursor := rfl
@[simp] theorem setFlag_buttons (f : Flag) (b : Bool) : (s.setFlag f b).buttons = s.buttons := rfl
@[simp] theorem setFlag_ppu (f : Flag) (b : Bool) : (s.setFlag f b).ppu = s.ppu := rfl
@[simp] theorem setFlag_config (f : Flag) (b : Bool) : (s.setFlag f b).config = s.config := rfl
@[simp] theorem setFlag_draws (f : Flag) (b : Bool) : (s.setFlag f b).draws = s.draws := rfl
@[simp] theorem setFlag_frameEvent (f : Flag) (b : Bool) : (s.setFlag f b).frameEvent = s.frameEvent := rfl
@[simp] theorem setFlag_frameComplete (f : Flag) (b : Bool) : (s.setFlag f b).frameComplete = s.frameComplete := rfl

/-! `setZN` -/

@[simp] theorem setZN_a (v : Byte) : (s.setZN v).a = s.a := rfl
@[simp] theorem setZN_x (v : Byte) : (s.setZN v).x = s.x := rfl
@[simp] theorem setZN_y (v : Byte) : (s.setZN v).y = s.y := rfl
@[simp] theorem setZN_sp (v : Byte) : (s.setZN v).sp = s.sp := rfl
@[simp] theorem setZN_p (v : Byte) : (s.setZN v).p = withFlag (withFlag s.p .z (v == 0x00)) .n (v.getLsbD 7) := rfl
@[simp] theorem setZN_pc (v : Byte) : (s.setZN v).pc = s.pc := rfl
@[simp] theorem setZN_run (v : Byte) : (s.setZN v).run = s.run := rfl
@[simp] theorem setZN_ram (v : Byte) : (s.setZN v).ram = s.ram := rfl
@[simp] theorem setZN_prgRam (v : Byte) : (s.setZN v).prgRam = s.prgRam := rfl
@[simp] theorem setZN_prg (v : Byte) : (s.setZN v).prg = s.prg := rfl
@[simp] theorem setZN_prgSize (v : Byte) : (s.setZN v).prgSize = s.prgSize := rfl
@[simp] theorem setZN_cycles (v : Byte) : (s.setZN v).cycles = s.cycles := rfl
@[simp] theorem setZN_strobe (v : Byte) : (s.setZN v).strobe = s.strobe := rfl
@[simp] theorem setZN_cursor (v : Byte) : (s.setZN v).cursor = s.cursor := rfl
@[simp] theorem setZN_buttons (v : Byte) : (s.setZN v).buttons = s.buttons := rfl
@[simp] theorem setZN_ppu (v : Byte) : (s.setZN v).ppu = s.ppu := rfl
@[simp] theorem setZN_config (v : Byte) : (s.setZN v).config = s.config := rfl
@[simp] theorem setZN_draws (v : Byte) : (s.setZN v).draws = s.draws := rfl
@[simp] theorem setZN_frameEvent (v : Byte) : (s.setZN v).frameEvent = s.frameEvent := rfl
@[simp] theorem setZN_frameComplete (v : Byte) : (s.setZN v).frameComplete = s.frameComplete := rfl

end updates

end Sys2Proof.Machine.State

namespace Sys2Proof.Machine

/-! ## Sequencing -/

section sequencing
variable {α β : Type}

@[simp] theorem Access.bind_ok (v : α) (s : State) (k : α → State → Access β) : (Access.ok v s).bind k = k v s := rfl
@[simp] theorem Access.bind_fault (f : Fault) (k : α → State → Access β) : (Access.fault f).bind k = .fault f := rfl
@[simp] theorem Access.andThen_ok (v : α) (s : State) (k : α → State → StepOutcome) : (Access.ok v s).andThen k = k v s := rfl
@[simp] theorem Access.andThen_fault (f : Fault) (k : α → State → StepOutcome) : (Access.fault f : Access α).andThen k = .fault f := rfl

/-- A sequence of accesses succeeds when each does. -/
theorem Access.bind_eq_ok {r : Access α} {k : α → State → Access β} {v : β} {t : State} :
    r.bind k = .ok v t ↔ ∃ u s, r = .ok u s ∧ k u s = .ok v t := by
  cases r <;> simp [Access.bind]

/-- A sequence faults at its first access that faults. -/
theorem Access.bind_eq_fault {r : Access α} {k : α → State → Access β} {f : Fault} :
    r.bind k = .fault f ↔ r = .fault f ∨ ∃ u s, r = .ok u s ∧ k u s = .fault f := by
  cases r <;> simp [Access.bind]

theorem Access.andThen_eq_next {r : Access α} {k : α → State → StepOutcome} {t : State} :
    r.andThen k = .next t ↔ ∃ u s, r = .ok u s ∧ k u s = .next t := by
  cases r <;> simp [Access.andThen]

theorem Access.andThen_eq_fault {r : Access α} {k : α → State → StepOutcome} {f : Fault} :
    r.andThen k = .fault f ↔ r = .fault f ∨ ∃ u s, r = .ok u s ∧ k u s = .fault f := by
  cases r <;> simp [Access.andThen]

/-- A sequence refuses only where its continuation does. -/
theorem Access.andThen_eq_refused {r : Access α} {k : α → State → StepOutcome} {q : Refusal} :
    r.andThen k = .refused q ↔ ∃ u s, r = .ok u s ∧ k u s = .refused q := by
  cases r <;> simp [Access.andThen]

end sequencing

end Sys2Proof.Machine
end

