-- ==== Sys2Proof/Laws/Flags.lean ====
section
/-! SUPPORT. The flags of P: reading after writing, and the composed writes as bit masks. -/

namespace Sys2Proof.Machine

/-- A flag read after a flag write. -/
theorem getLsbD_withFlag (p : Byte) (f g : Flag) (b : Bool) :
    (withFlag p f b).getLsbD g.bit = if g = f then b else p.getLsbD g.bit := by
  cases b <;> cases f <;> cases g <;> simp [withFlag, Flag.bit]

@[simp] theorem State.flag_setFlag (s : State) (f g : Flag) (b : Bool) :
    (s.setFlag f b).flag g = if g = f then b else s.flag g := getLsbD_withFlag s.p f g b

@[simp] theorem State.flag_setZN (s : State) (v : Byte) (g : Flag) :
    (s.setZN v).flag g = if g = .n then v.getLsbD 7 else if g = .z then (v == 0x00) else s.flag g := by
  simp [State.setZN]

/-! A flag after an update of another field. -/

@[simp] theorem State.flag_setA (s : State) (v : Byte) (f : Flag) : (s.setA v).flag f = s.flag f := rfl
@[simp] theorem State.flag_setX (s : State) (v : Byte) (f : Flag) : (s.setX v).flag f = s.flag f := rfl
@[simp] theorem State.flag_setY (s : State) (v : Byte) (f : Flag) : (s.setY v).flag f = s.flag f := rfl
@[simp] theorem State.flag_setSp (s : State) (v : Byte) (f : Flag) : (s.setSp v).flag f = s.flag f := rfl
@[simp] theorem State.flag_setPc (s : State) (v : Addr) (f : Flag) : (s.setPc v).flag f = s.flag f := rfl
@[simp] theorem State.flag_setRam (s : State) (m : Memory) (f : Flag) : (s.setRam m).flag f = s.flag f := rfl
@[simp] theorem State.flag_setRun (s : State) (r : Run) (f : Flag) : (s.setRun r).flag f = s.flag f := rfl

/-- PLP's and RTI's P: B is 0, U is 1 and the other flags are the byte's (R294, R323). -/
theorem getLsbD_withoutBreak (p : Byte) (g : Flag) :
    (withoutBreak p).getLsbD g.bit = if g = .b then false else if g = .u then true else p.getLsbD g.bit := by
  cases g <;> simp [withoutBreak, Flag.bit]

/-- Two bytes with equal flags are equal. -/
theorem eq_of_flags {p q : Byte} (h : ∀ f : Flag, p.getLsbD f.bit = q.getLsbD f.bit) : p = q := by
  apply BitVec.eq_of_getLsbD_eq
  intro i hi
  match i, hi with
  | 0, _ => exact h .c
  | 1, _ => exact h .z
  | 2, _ => exact h .i
  | 3, _ => exact h .d
  | 4, _ => exact h .b
  | 5, _ => exact h .u
  | 6, _ => exact h .v
  | 7, _ => exact h .n

end Sys2Proof.Machine
end

