-- ==== Sys2Proof/Laws/Alu.lean ====
section
/-! SUPPORT. The flag computations as bit masks of P: each core said once as the fields it writes. -/

namespace Sys2Proof.Machine

theorem getLsbD_seven (v : Byte) : v.getLsbD 7 = v.msb := by
  rw [BitVec.msb_eq_getLsbD_last]

theorem carry_eq (s : State) : s.carry = carryIn s.p := by
  have : s.flag .c = decide (s.p.toNat % 2 = 1) := by
    show s.p.getLsbD 0 = _
    rw [BitVec.getLsbD, Nat.testBit_zero]
  have h2 : s.p.toNat % 2 < 2 := Nat.mod_lt _ (by decide)
  unfold State.carry carryIn
  rw [this]
  by_cases h : s.p.toNat % 2 = 1 <;> simp [h]
  omega

theorem withFlag_c (p : Byte) (b : Bool) : withFlag p .c b = cBits p b := by
  apply eq_of_flags
  intro f
  rw [getLsbD_withFlag]
  cases b <;> cases f <;> simp [cBits, Flag.bit]

theorem withFlag_zn (p v : Byte) : withFlag (withFlag p .z (v == 0x00)) .n (v.getLsbD 7) = znBits p v := by
  apply eq_of_flags
  intro f
  rw [getLsbD_withFlag, getLsbD_withFlag]
  by_cases h : v = 0#8 <;> cases f <;> simp [znBits, Flag.bit, h]

theorem withFlag_cv (p : Byte) (c v : Bool) : withFlag (withFlag p .c c) .v v = cvBits p c v := by
  apply eq_of_flags
  intro f
  rw [getLsbD_withFlag, getLsbD_withFlag]
  cases c <;> cases v <;> cases f <;> simp [cvBits, Flag.bit]

/-- `ZN(v)` writes P alone (R15). -/
theorem setZN_eq (s : State) (v : Byte) : s.setZN v = { s with p := znBits s.p v } := by
  rw [← withFlag_zn]; rfl

theorem setFlag_c_eq (s : State) (b : Bool) : s.setFlag .c b = { s with p := cBits s.p b } := by
  rw [← withFlag_c]; rfl

/-- `AddCore(k)` writes A and P (R240). -/
theorem addCore_eq (k : Byte) (s : State) :
    addCore k s = { s with a := addByte s.a k (carryIn s.p), p := addBits s.p s.a k } := by
  simp only [addCore, setZN_eq, carry_eq, addBits, ← withFlag_cv, addOverflow, getLsbD_seven, addSum, addByte]
  rfl

theorem le_toNat (a b : Byte) : decide (a.toNat ≤ b.toNat) = decide (a ≤ b) := rfl

/-- `CompareCore(reg, k)` writes P alone (R245). -/
theorem compareCore_eq (reg k : Byte) (s : State) : compareCore reg k s = { s with p := compareBits s.p reg k } := by
  have : withFlag (withFlag (withFlag s.p .c (decide (k.toNat ≤ reg.toNat))) .z (reg == k)) .n ((reg - k).getLsbD 7)
      = compareBits s.p reg k := by
    apply eq_of_flags
    intro f
    rw [getLsbD_withFlag, getLsbD_withFlag, getLsbD_withFlag, le_toNat]
    by_cases h : reg = k <;> by_cases h' : k ≤ reg <;> cases f <;> simp [compareBits, Flag.bit, h, h']
  rw [← this]; rfl

/-- BIT writes P alone (R248). -/
theorem bitCore_eq (m : Byte) (s : State) : bitCore m s = { s with p := bitBits s.p s.a m } := by
  have : withFlag (withFlag (withFlag s.p .z ((s.a &&& m) == 0x00)) .n (m.getLsbD 7)) .v (m.getLsbD 6)
      = bitBits s.p s.a m := by
    apply eq_of_flags
    intro f
    rw [getLsbD_withFlag, getLsbD_withFlag, getLsbD_withFlag]
    by_cases h : s.a &&& m = 0#8 <;> cases f <;> simp [bitBits, Flag.bit, h]
  rw [← this]; rfl

/-! ## What P holds after each -/

theorem flag_znBits (p v : Byte) (f : Flag) :
    (znBits p v).getLsbD f.bit = if f = .n then v.msb else if f = .z then decide (v = 0) else p.getLsbD f.bit := by
  rw [← withFlag_zn, getLsbD_withFlag, getLsbD_withFlag, getLsbD_seven]; rfl

theorem flag_cBits (p : Byte) (b : Bool) (f : Flag) :
    (cBits p b).getLsbD f.bit = if f = .c then b else p.getLsbD f.bit := by
  rw [← withFlag_c, getLsbD_withFlag]

theorem flag_cvBits (p : Byte) (c v : Bool) (f : Flag) :
    (cvBits p c v).getLsbD f.bit = if f = .v then v else if f = .c then c else p.getLsbD f.bit := by
  rw [← withFlag_cv, getLsbD_withFlag, getLsbD_withFlag]

end Sys2Proof.Machine
end

