-- ==== Sys2Proof/Laws/Memory.lean ====
section
/-! SUPPORT. The laws of a memory array: read after write, the canonical form, and that canonical arrays
with equal bytes are equal. -/

namespace Sys2Proof.Machine.Memory

@[simp] theorem read_nil (i : Nat) : Memory.read [] i = blank := rfl

theorem read_cons (k : Nat) (v : Byte) (m : Memory) (i : Nat) :
    Memory.read ((k, v) :: m) i = if k = i then v else Memory.read m i := rfl

/-- An index with no cell reads as blank. -/
theorem read_eq_blank {m : Memory} {i : Nat} (h : ∀ c ∈ m, c.1 ≠ i) : m.read i = blank := by
  induction m with
  | nil => rfl
  | cons c m ih =>
    have hc : c.1 ≠ i := h c (by simp)
    rw [show c = (c.1, c.2) from rfl, read_cons, if_neg hc]
    exact ih fun d hd => h d (by simp [hd])

/-- The first cell of an index gives the byte read there. -/
theorem read_filter_ne (m : Memory) {i j : Nat} (h : j ≠ i) :
    Memory.read (m.filter fun c => c.1 ≠ i) j = m.read j := by
  induction m with
  | nil => rfl
  | cons c m ih =>
    obtain ⟨k, v⟩ := c
    by_cases hk : k = i
    · subst hk
      simp only [ne_eq, not_true_eq_false, decide_false, Bool.false_eq_true, not_false_eq_true,
        List.filter_cons_of_neg, read_cons, if_neg (Ne.symm h)]
      exact ih
    · simp only [ne_eq, hk, not_false_eq_true, decide_true, List.filter_cons_of_pos, read_cons]
      rw [ih]

theorem read_insert_same {m : Memory} {i : Nat} (v : Byte) (h : ∀ c ∈ m, c.1 ≠ i) :
    (insert i v m).read i = v := by
  induction m with
  | nil => simp [insert, read_cons]
  | cons c m ih =>
    obtain ⟨k, w⟩ := c
    have hk : k ≠ i := h (k, w) (by simp)
    simp only [insert]
    split
    · simp [read_cons]
    · rw [read_cons, if_neg hk]
      exact ih fun d hd => h d (by simp [hd])

theorem read_insert_ne (m : Memory) {i j : Nat} (v : Byte) (h : j ≠ i) : (insert i v m).read j = m.read j := by
  induction m with
  | nil => simp [insert, read_cons, Ne.symm h]
  | cons c m ih =>
    obtain ⟨k, w⟩ := c
    simp only [insert]
    split
    · simp [read_cons, Ne.symm h]
    · simp [read_cons, ih]

/-- A byte written is the byte read. -/
@[simp] theorem read_write_same (m : Memory) (i : Nat) (v : Byte) : (m.write i v).read i = v := by
  have hf : ∀ c ∈ m.filter (fun c => c.1 ≠ i), c.1 ≠ i := fun c hc => by
    simpa using (List.mem_filter.1 hc).2
  unfold write
  split
  · next hv => rw [read_eq_blank hf, hv]
  · exact read_insert_same v hf

/-- A write leaves every other byte. -/
theorem read_write_ne (m : Memory) {i j : Nat} (v : Byte) (h : j ≠ i) : (m.write i v).read j = m.read j := by
  unfold write
  split
  · exact read_filter_ne m h
  · simp only []
    rw [read_insert_ne _ v h, read_filter_ne m h]

theorem read_write (m : Memory) (i j : Nat) (v : Byte) :
    (m.write i v).read j = if j = i then v else m.read j := by
  split
  · next h => rw [h, read_write_same]
  · next h => exact read_write_ne m v h

/-! ## The canonical form -/

@[simp] theorem wf_nil (size : Nat) : wf size [] := by simp [wf]

theorem mem_insert {m : Memory} {i : Nat} {v : Byte} {c : Host.Cell} (h : c ∈ insert i v m) :
    c = (i, v) ∨ c ∈ m := by
  induction m with
  | nil => simpa [insert] using h
  | cons d m ih =>
    obtain ⟨k, w⟩ := d
    simp only [insert] at h
    split at h
    · simpa using h
    · rcases List.mem_cons.1 h with h | h
      · exact .inr (by simp [h])
      · exact (ih h).imp id fun h => by simp [h]

theorem pairwise_insert {m : Memory} {i : Nat} (v : Byte) (hm : m.Pairwise fun c d => c.1 < d.1)
    (hi : ∀ c ∈ m, c.1 ≠ i) : (insert i v m).Pairwise fun c d => c.1 < d.1 := by
  induction m with
  | nil => simp [insert]
  | cons d m ih =>
    obtain ⟨k, w⟩ := d
    have hd := List.pairwise_cons.1 hm
    have hk : k ≠ i := hi (k, w) (by simp)
    simp only [insert]
    split
    · next hlt =>
      refine List.pairwise_cons.2 ⟨fun c hc => ?_, hm⟩
      rcases List.mem_cons.1 hc with rfl | hc
      · exact hlt
      · exact Nat.lt_trans hlt (hd.1 c hc)
    · next hlt =>
      refine List.pairwise_cons.2 ⟨fun c hc => ?_, ih hd.2 fun c hc => hi c (by simp [hc])⟩
      rcases mem_insert hc with rfl | hc
      · show k < i; omega
      · exact hd.1 c hc

/-- Every write inside the array keeps the canonical form. -/
theorem wf_write {size : Nat} {m : Memory} (hm : wf size m) {i : Nat} (hi : i < size) (v : Byte) :
    wf size (m.write i v) := by
  have hp : (m.filter (fun c => c.1 ≠ i)).Pairwise fun c d => c.1 < d.1 := hm.1.filter _
  have hc : ∀ c ∈ m.filter (fun c => c.1 ≠ i), c.1 < size ∧ c.2 ≠ blank := fun c h => hm.2 c (List.mem_filter.1 h).1
  have hf : ∀ c ∈ m.filter (fun c => c.1 ≠ i), c.1 ≠ i := fun c h => by simpa using (List.mem_filter.1 h).2
  unfold write
  split
  · exact ⟨hp, hc⟩
  · next hv =>
    refine ⟨pairwise_insert v hp hf, fun c h => ?_⟩
    rcases mem_insert h with rfl | h
    · exact ⟨hi, hv⟩
    · exact hc c h

/-- Canonical arrays with equal bytes are equal data. -/
theorem eq_of_read_eq {size : Nat} {m n : Memory} (hm : wf size m) (hn : wf size n)
    (h : ∀ i, m.read i = n.read i) : m = n := by
  induction m generalizing n with
  | nil =>
    cases n with
    | nil => rfl
    | cons d n =>
      have hd := (hn.2 d (by simp)).2
      have := h d.1
      rw [show d = (d.1, d.2) from rfl, read_cons] at this
      simp only [read_nil, if_true] at this
      exact absurd this.symm hd
  | cons c m ih =>
    obtain ⟨k, v⟩ := c
    have hc := (hm.2 (k, v) (by simp)).2
    cases n with
    | nil =>
      have := h k
      rw [read_cons, if_pos rfl, read_nil] at this
      exact absurd this hc
    | cons d n =>
      obtain ⟨l, w⟩ := d
      have hd := (hn.2 (l, w) (by simp)).2
      have hmk := List.pairwise_cons.1 hm.1
      have hnl := List.pairwise_cons.1 hn.1
      have hkl : k = l := by
        rcases Nat.lt_trichotomy k l with hlt | heq | hlt
        · have := h k
          rw [read_cons, if_pos rfl, read_cons, if_neg (by omega), read_eq_blank] at this
          · exact absurd this hc
          · intro d hd'; have : l < d.1 := hnl.1 d hd'; omega
        · exact heq
        · have := h l
          rw [read_cons l, if_pos rfl, read_cons, if_neg (by omega), read_eq_blank] at this
          · exact absurd this.symm hd
          · intro d hd'; have : k < d.1 := hmk.1 d hd'; omega
      subst hkl
      have hvw : v = w := by have := h k; simpa [read_cons] using this
      subst hvw
      have : m = n := by
        refine ih ⟨hmk.2, fun d hd' => hm.2 d (by simp [hd'])⟩ ⟨hnl.2, fun d hd' => hn.2 d (by simp [hd'])⟩ fun i => ?_
        by_cases hi : k = i
        · subst hi
          rw [read_eq_blank, read_eq_blank]
          · intro d hd'; have : k < d.1 := hnl.1 d hd'; omega
          · intro d hd'; have : k < d.1 := hmk.1 d hd'; omega
        · have := h i
          simpa [read_cons, hi] using this
      rw [this]

/-! ## Arrays from lists of bytes -/

theorem mem_ofBytes {l : List Byte} {i : Nat} {c : Host.Cell} (h : c ∈ ofBytes i l) :
    i ≤ c.1 ∧ c.1 < i + l.length ∧ c.2 ≠ blank := by
  induction l generalizing i with
  | nil => simp [ofBytes] at h
  | cons b l ih =>
    simp only [ofBytes] at h
    split at h
    · have := ih h; exact ⟨by omega, by simp only [List.length_cons]; omega, this.2.2⟩
    · next hb =>
      rcases List.mem_cons.1 h with rfl | h
      · exact ⟨Nat.le_refl _, by simp, hb⟩
      · have := ih h; exact ⟨by omega, by simp only [List.length_cons]; omega, this.2.2⟩

/-- A list of bytes no longer than the array gives a canonical array. -/
theorem wf_ofBytes {size : Nat} {l : List Byte} (h : l.length ≤ size) : wf size (ofBytes 0 l) := by
  refine ⟨?_, fun c hc => ?_⟩
  · have : ∀ (l : List Byte) (i : Nat), (ofBytes i l).Pairwise fun c d => c.1 < d.1 := by
      intro l
      induction l with
      | nil => intro i; simp [ofBytes]
      | cons b l ih =>
        intro i
        simp only [ofBytes]
        split
        · exact ih _
        · refine List.pairwise_cons.2 ⟨fun c hc => ?_, ih _⟩
          have := mem_ofBytes hc; show i < c.1; omega
    exact this l 0
  · have := mem_ofBytes hc
    exact ⟨by omega, this.2.2⟩

/-- The byte of the array is the byte of the list. -/
theorem read_ofBytes (l : List Byte) (i j : Nat) :
    (ofBytes i l).read (i + j) = (l[j]?).getD blank := by
  induction l generalizing i j with
  | nil => simp [ofBytes]
  | cons b l ih =>
    simp only [ofBytes]
    cases j with
    | zero =>
      split
      · next hb =>
        rw [Nat.add_zero, read_eq_blank]
        · simp [hb]
        · intro c hc; have := mem_ofBytes hc; omega
      · simp [read_cons]
    | succ j =>
      have := ih (i + 1) j
      rw [show i + 1 + j = i + (j + 1) from by omega] at this
      split
      · simpa using this
      · rw [read_cons, if_neg (by omega)]; simpa using this

/-- Blank bytes need no cells. -/
theorem ofBytes_replicate (n i : Nat) : ofBytes i (List.replicate n blank) = [] := by
  induction n generalizing i with
  | zero => rfl
  | succ n ih => simp [List.replicate_succ, ofBytes, ih]

end Sys2Proof.Machine.Memory
end

