-- ==== Sys2Proof/Laws/Bus.lean ====
section
/-! SUPPORT. Addresses and their decode, and the plain accesses said once: RAM, the stack, zero-page
pointers, effective addresses and the vector reads. -/

namespace Sys2Proof.Machine

/-! ## Addresses -/

theorem getLsbD_addr16 (hi lo : Byte) (i : Nat) :
    (addr16 hi lo).getLsbD i = if i < 8 then lo.getLsbD i else hi.getLsbD (i - 8) := by
  have := BitVec.getLsbD_append (x := hi) (y := lo) (i := i)
  by_cases h : i < 8 <;> simp [h] at this ⊢ <;> exact this

theorem toNat_addr16 (hi lo : Byte) : (addr16 hi lo).toNat = hi.toNat * 256 + lo.toNat := by
  have : lo.toNat < 2 ^ 8 := lo.isLt
  rw [addr16, BitVec.toNat_append, ← Nat.shiftLeft_add_eq_or_of_lt this, Nat.shiftLeft_eq]

@[simp] theorem highByte_addr16 (hi lo : Byte) : highByte (addr16 hi lo) = hi := by
  apply BitVec.eq_of_getLsbD_eq
  intro i h
  simp [highByte, getLsbD_addr16, h]

@[simp] theorem lowByte_addr16 (hi lo : Byte) : lowByte (addr16 hi lo) = lo := by
  apply BitVec.eq_of_getLsbD_eq
  intro i h
  simp [lowByte, getLsbD_addr16, h]

@[simp] theorem addr16_high_low (a : Addr) : addr16 (highByte a) (lowByte a) = a := by
  apply BitVec.eq_of_getLsbD_eq
  intro i h
  rw [getLsbD_addr16]
  by_cases h8 : i < 8
  · simp [h8, lowByte]
  · simp only [h8, if_false, highByte]
    simp [show i - 8 < 8 by omega, show 8 + (i - 8) = i by omega]

theorem toNat_zext16 (b : Byte) : (zext16 b).toNat = b.toNat := by
  have : b.toNat < 256 := b.isLt
  simp only [zext16, BitVec.toNat_setWidth]
  omega

/-! ## The bus decode -/

theorem busCell_ram {a : Addr} (h : a.toNat < 0x2000) : busCell a = .ram (a.toNat % 0x800) := by
  simp [busCell, h]

theorem busCell_zeroPage (z : Byte) : busCell (zext16 z) = .ram z.toNat := by
  have : z.toNat < 256 := z.isLt
  rw [busCell_ram (by rw [toNat_zext16]; omega), toNat_zext16, Nat.mod_eq_of_lt (by omega)]

theorem toNat_stackAddr (sp : Byte) : (stackAddr sp).toNat = stackIndex sp := by
  rw [stackAddr, toNat_addr16]; rfl

theorem stackIndex_lt (sp : Byte) : stackIndex sp < 0x200 := by
  have : sp.toNat < 256 := sp.isLt
  simp only [stackIndex]; omega

/-- The stack page lies in RAM (R83, R110). -/
theorem busCell_stack (sp : Byte) : busCell (stackAddr sp) = .ram (stackIndex sp) := by
  have := stackIndex_lt sp
  rw [busCell_ram (by rw [toNat_stackAddr]; omega), toNat_stackAddr, Nat.mod_eq_of_lt (by omega)]

theorem busCell_prgRom {a : Addr} (h : 0x8000 ≤ a.toNat) : busCell a = .prgRom (a.toNat - 0x8000) := by
  simp only [busCell]
  rw [if_neg (by omega), if_neg (by omega), if_neg (by omega), if_neg (by omega), if_neg (by omega), if_neg (by omega)]

theorem busCell_ppuReg {a : Addr} (h : 0x2000 ≤ a.toNat ∧ a.toNat < 0x4000) : busCell a = .ppuReg := by
  simp only [busCell]
  rw [if_neg (by omega), if_pos h.2]

/-- The index of a RAM cell is inside RAM. -/
theorem busCell_ram_lt {a : Addr} {i : Nat} (h : busCell a = .ram i) : i < 0x800 := by
  simp only [busCell] at h
  repeat' split at h
  all_goals simp at h
  omega

theorem busCell_prgRam_lt {a : Addr} {i : Nat} (h : busCell a = .prgRam i) : i < 0x2000 := by
  simp only [busCell] at h
  repeat' split at h
  all_goals simp at h
  omega

/-- The cells of the PPU address space lie in their arrays. -/
theorem ppuCell_chr_lt {mir : Mirroring} {p : VAddr} {i : Nat} (h : ppuCell mir p = .chr i) : i < 0x2000 := by
  simp only [ppuCell, nametableCell] at h
  repeat' split at h
  all_goals simp at h
  omega

theorem ppuCell_vram_lt {mir : Mirroring} {p : VAddr} {i : Nat} (h : ppuCell mir p = .vram i) : i < 0x800 := by
  simp only [ppuCell, nametableCell] at h
  repeat' split at h
  all_goals simp at h
  all_goals omega

theorem paletteIndex_lt (p : VAddr) : paletteIndex p < 0x20 := by
  simp only [paletteIndex]
  split <;> omega

theorem ppuCell_palette_lt {mir : Mirroring} {p : VAddr} {i : Nat} (h : ppuCell mir p = .palette i) : i < 0x20 := by
  simp only [ppuCell, nametableCell] at h
  repeat' split at h
  all_goals simp at h
  rw [← h]
  exact paletteIndex_lt p

/-! ## Plain accesses -/

theorem busRead_ram {a : Addr} {i : Nat} (h : busCell a = .ram i) (s : State) :
    busRead a s = .ok (s.ram.read i) s := by
  simp only [busRead, h]

theorem busWrite_ram {a : Addr} {i : Nat} (h : busCell a = .ram i) (v : Byte) (s : State) :
    busWrite a v s = .ok 0 (s.setRam (s.ram.write i v)) := by
  simp only [busWrite, h]

theorem busRead_prgRom {a : Addr} (h : 0x8000 ≤ a.toNat) (s : State) :
    busRead a s = .ok (s.prg.read ((a.toNat - 0x8000) % prgLength s.prgSize)) s := by
  simp only [busRead, busCell_prgRom h]

/-- A push stores in RAM and never faults (R110, R295). -/
theorem push_eq (v : Byte) (s : State) :
    push v s = .ok () ((s.setRam (s.ram.write (stackIndex s.sp) v)).setSp (s.sp - 1)) := by
  simp only [push, busWrite_ram (busCell_stack s.sp), Access.bind_ok, State.setRam_sp]

/-- A pull reads RAM and never faults (R110, R295). -/
theorem pull_eq (s : State) : pull s = .ok (s.ram.read (stackIndex (s.sp + 1))) (s.setSp (s.sp + 1)) := by
  simp only [pull, State.setSp_sp, busRead_ram (busCell_stack _), State.setSp_ram]

theorem push16_eq (v : Addr) (s : State) :
    push16 v s = .ok () ((s.setRam ((s.ram.write (stackIndex s.sp) (highByte v)).write (stackIndex (s.sp - 1))
      (lowByte v))).setSp (s.sp - 1 - 1)) := by
  simp only [push16, push_eq, Access.bind_ok]
  rfl

theorem pull16_eq (s : State) :
    pull16 s = .ok (addr16 (s.ram.read (stackIndex (s.sp + 1 + 1))) (s.ram.read (stackIndex (s.sp + 1))))
      (s.setSp (s.sp + 1 + 1)) := by
  simp only [pull16, pull_eq, Access.bind_ok]
  rfl

/-- RTI's pulls (R294). -/
theorem pullFrame_eq (s : State) :
    pullFrame s = .ok (addr16 (s.ram.read (stackIndex (s.sp + 1 + 1 + 1))) (s.ram.read (stackIndex (s.sp + 1 + 1))))
      ((s.setP (withoutBreak (s.ram.read (stackIndex (s.sp + 1))))).setSp (s.sp + 1 + 1 + 1)) := by
  simp only [pullFrame, pull_eq, pull16_eq, Access.bind_ok]
  rfl

theorem zpRead16_eq (z : Byte) (s : State) :
    zpRead16 z s = .ok (addr16 (s.ram.read (z + 1).toNat) (s.ram.read z.toNat)) s := by
  simp only [zpRead16, busRead_ram (busCell_zeroPage _), Access.bind_ok]

/-- Resolve of a memory operand never faults and changes nothing: its pointers lie in the zero page (R185). -/
theorem resolve_ok (m : MemOperand) (s : State) : ∃ e, resolve m s = .ok e s := by
  cases m <;> simp only [resolve, zpRead16_eq, Access.bind_ok] <;> exact ⟨_, rfl⟩

/-- A vector read lies in PRG-ROM (R98): no fault, no change. -/
theorem busRead16_prgRom {a : Addr} (h : 0x8000 ≤ a.toNat) (h' : a.toNat < 0xFFFF) (s : State) :
    busRead16 a s = .ok (addr16 (s.prg.read ((a.toNat + 1 - 0x8000) % prgLength s.prgSize))
      (s.prg.read ((a.toNat - 0x8000) % prgLength s.prgSize))) s := by
  have ha : (a + 1).toNat = a.toNat + 1 := by
    rw [BitVec.toNat_add]; simp; omega
  simp only [busRead16, busRead_prgRom h, Access.bind_ok, busRead_prgRom (show 0x8000 ≤ (a + 1).toNat by omega), ha]

end Sys2Proof.Machine
end

