-- ==== Sys2Proof/Laws/Classes.lean ====
section
/-! SUPPORT. The instruction classes said once: the table's cycles by class, each class's next state, and its
inversion. -/

namespace Sys2Proof.Machine

/-! ## The table's cycles by class (R148, R149, R192) -/

/-- The read class: operations whose operand form is a `Source`. -/
def readOps : List Op :=
  [.lda, .ldx, .ldy, .adc, .sbc, .and, .ora, .eor, .cmp, .cpx, .cpy, .bit, .lax, .nopUndoc, .sbcUndoc]

def storeOps : List Op := [.sta, .stx, .sty, .sax]

def rmwOps : List Op := [.inc, .dec, .asl, .lsr, .rol, .ror, .slo, .rla, .sre, .rra, .dcp, .isb]

/-- A read's base cycles and penalty by mode. -/
def readGrid : Mode → Nat × Bool
  | .immediate | .implied => (2, false)
  | .zeroPage => (3, false)
  | .zeroPageX | .zeroPageY | .absolute => (4, false)
  | .absoluteX | .absoluteY => (4, true)
  | .indirectX => (6, false)
  | .indirectY => (5, true)
  | _ => (0, false)

def storeGrid : Mode → Nat × Bool
  | .zeroPage => (3, false)
  | .zeroPageX | .zeroPageY | .absolute => (4, false)
  | .absoluteX | .absoluteY => (5, false)
  | .indirectX | .indirectY => (6, false)
  | _ => (0, false)

def rmwGrid : Mode → Nat × Bool
  | .accumulator => (2, false)
  | .zeroPage => (5, false)
  | .zeroPageX | .zeroPageY | .absolute => (6, false)
  | .absoluteX | .absoluteY => (7, false)
  | .indirectX | .indirectY => (8, false)
  | _ => (0, false)

/-- The cycles and the penalty of an operation in a mode. -/
def gridCell (op : Op) (m : Mode) : Option (Nat × Bool) := (entryOf op m).map fun e => (e.cycles, e.penalty)

theorem read_grid : ∀ op ∈ readOps, ∀ m ∈ op.modes, gridCell op m = some (readGrid m) := by decide

theorem store_grid : ∀ op ∈ storeOps, ∀ m ∈ op.modes, gridCell op m = some (storeGrid m) := by decide

theorem rmw_grid : ∀ op ∈ rmwOps, ∀ m ∈ op.modes, gridCell op m = some (rmwGrid m) := by decide

theorem charge_of_gridCell {op : Op} {m : Mode} {g : Nat × Bool} (h : gridCell op m = some g) (c : Bool) :
    charge op m c = g.1 + if g.2 && c then 1 else 0 := by
  obtain ⟨e, he, rfl⟩ := Option.map_eq_some_iff.1 h
  simp [charge, baseCycles, pagePenalty, he]

theorem charge_read {op : Op} (h : op ∈ readOps) {o : Source} (hm : o.mode ∈ op.modes) (c : Bool) :
    charge op o.mode c = readCycles o c := by
  rw [charge_of_gridCell (read_grid op h _ hm)]
  cases o with
  | imm v => rfl
  | mem m => cases m <;> cases c <;> rfl

theorem charge_store {op : Op} (h : op ∈ storeOps) {m : MemOperand} (hm : m.mode ∈ op.modes) (c : Bool) :
    charge op m.mode c = storeCycles m := by
  rw [charge_of_gridCell (store_grid op h _ hm)]
  cases m <;> rfl

theorem charge_rmw {op : Op} (h : op ∈ rmwOps) {m : MemOperand} (hm : m.mode ∈ op.modes) (c : Bool) :
    charge op m.mode c = rmwCycles m := by
  rw [charge_of_gridCell (rmw_grid op h _ hm)]
  cases m <;> rfl

/-! ## Lengths -/

theorem MemOperand.length_bytes (m : MemOperand) : m.mode.length = m.bytes.length + 1 := by cases m <;> rfl

theorem Source.length_bytes (o : Source) : o.mode.length = o.bytes.length + 1 := by
  cases o with
  | imm v => rfl
  | mem m => exact MemOperand.length_bytes m

theorem pcAfter_source (s : State) (o : Source) : s.pcAfter o.mode = s.pc + BitVec.ofNat 16 o.bytes.length := by
  simp [State.pcAfter, Source.length_bytes]

theorem pcAfter_mem (s : State) (m : MemOperand) : s.pcAfter m.mode = s.pc + BitVec.ofNat 16 m.bytes.length := by
  simp [State.pcAfter, MemOperand.length_bytes]

/-! ## Each class's next state -/

theorem readClass_ok {op : Op} {o : Source} {s t : State} {v : Byte} {c : Bool}
    (h : readSource o s = .ok (v, c) t) (effect : Byte → State → State) :
    readClass op o effect s = .next (tick (charge op o.mode c) ((effect v t).setPc ((effect v t).pcAfter o.mode))) := by
  unfold readClass; rw [h]; rfl

theorem writeClass_ok {op : Op} {m : MemOperand} {s u t : State} {e : EffAddr} {stall : Nat} {value : State → Byte}
    (hr : resolve m s = .ok e u) (hw : busWrite e.ea (value u) u = .ok stall t) :
    writeClass op m value s = .next (tick (charge op m.mode e.crossed + stall) (t.setPc (t.pcAfter m.mode))) := by
  unfold writeClass; rw [hr, Access.andThen_ok, hw]; rfl

theorem rmwClass_ok {op : Op} {m : MemOperand} {s u w t : State} {e : EffAddr} {v : Byte} {stall : Nat}
    {modify : Byte → State → Byte × State} (hr : resolve m s = .ok e u) (hv : busRead e.ea u = .ok v w)
    (hw : busWrite e.ea (modify v w).1 (modify v w).2 = .ok stall t) (after : Byte → State → State) :
    rmwClass op m modify after s =
      .next (tick (charge op m.mode e.crossed + stall)
        ((after (modify v w).1 t).setPc ((after (modify v w).1 t).pcAfter m.mode))) := by
  unfold rmwClass; rw [hr, Access.andThen_ok, hv, Access.andThen_ok]; simp only; rw [hw]; rfl

theorem impliedClass_eq (op : Op) (effect : State → State) (s : State) :
    impliedClass op effect s =
      .next (tick (charge op .implied false) ((effect s).setPc ((effect s).pc + BitVec.ofNat 16 0))) := rfl

/-- An implied operation of 2 cycles (R148): its effect, PC as it is, and the tick. -/
theorem impliedClass_two {op : Op} (h : gridCell op .implied = some (2, false)) (effect : State → State) (s : State) :
    impliedClass op effect s = .next (tick 2 (effect s)) := by
  rw [impliedClass_eq, charge_of_gridCell h, BitVec.add_zero]; rfl

/-- A shift of A (R148). -/
theorem shiftClass_acc {op : Op} (h : gridCell op .accumulator = some (2, false)) (core : Byte → State → Byte × State)
    (s : State) :
    shiftClass op .acc core s = .next (tick 2 (((core s.a s).2.setA (core s.a s).1).setZN (core s.a s).1)) := by
  show advance op .accumulator false 0 _ = _
  unfold advance finish State.pcAfter
  rw [charge_of_gridCell h]
  simp only [Mode.length, Nat.sub_self, BitVec.add_zero]
  rfl

/-- The end of an implied instruction of `n` cycles. -/
theorem advance_implied {op : Op} {n : Nat} (h : gridCell op .implied = some (n, false)) (s : State) :
    advance op .implied false 0 s = .next (tick n s) := by
  unfold advance finish State.pcAfter
  rw [charge_of_gridCell h]
  simp only [Mode.length, Nat.sub_self, BitVec.add_zero]
  rfl

/-! ## Each class's fault (R387) -/

theorem readClass_fault {op : Op} {o : Source} {s : State} {f : Fault} (h : readSource o s = .fault f)
    (effect : Byte → State → State) : readClass op o effect s = .fault f := by
  unfold readClass; rw [h]; rfl

theorem writeClass_fault {op : Op} {m : MemOperand} {s u : State} {e : EffAddr} {value : State → Byte} {f : Fault}
    (hr : resolve m s = .ok e u) (hw : busWrite e.ea (value u) u = .fault f) :
    writeClass op m value s = .fault f := by
  unfold writeClass; rw [hr, Access.andThen_ok, hw]; rfl

theorem rmwClass_readFault {op : Op} {m : MemOperand} {s u : State} {e : EffAddr} {f : Fault}
    (hr : resolve m s = .ok e u) (hv : busRead e.ea u = .fault f) (modify : Byte → State → Byte × State)
    (after : Byte → State → State) : rmwClass op m modify after s = .fault f := by
  unfold rmwClass; rw [hr, Access.andThen_ok, hv]; rfl

theorem rmwClass_writeFault {op : Op} {m : MemOperand} {s u w : State} {e : EffAddr} {v : Byte} {f : Fault}
    {modify : Byte → State → Byte × State} (hr : resolve m s = .ok e u) (hv : busRead e.ea u = .ok v w)
    (hw : busWrite e.ea (modify v w).1 (modify v w).2 = .fault f) (after : Byte → State → State) :
    rmwClass op m modify after s = .fault f := by
  unfold rmwClass; rw [hr, Access.andThen_ok, hv, Access.andThen_ok]; simp only; rw [hw]; rfl

/-! ## Inversion -/

theorem readClass_next {op : Op} {o : Source} {effect : Byte → State → State} {s t : State}
    (h : readClass op o effect s = .next t) :
    ∃ v c u, readSource o s = .ok (v, c) u ∧
      t = tick (charge op o.mode c) ((effect v u).setPc ((effect v u).pcAfter o.mode)) := by
  unfold readClass at h
  obtain ⟨⟨v, c⟩, u, hr, hn⟩ := Access.andThen_eq_next.1 h
  exact ⟨v, c, u, hr, by injection hn with hn; exact hn.symm⟩

theorem writeClass_next {op : Op} {m : MemOperand} {value : State → Byte} {s t : State}
    (h : writeClass op m value s = .next t) :
    ∃ e stall u, resolve m s = .ok e s ∧ busWrite e.ea (value s) s = .ok stall u ∧
      t = tick (charge op m.mode e.crossed + stall) (u.setPc (u.pcAfter m.mode)) := by
  unfold writeClass at h
  obtain ⟨e, he⟩ := resolve_ok m s
  rw [he, Access.andThen_ok] at h
  obtain ⟨stall, u, hw, hn⟩ := Access.andThen_eq_next.1 h
  exact ⟨e, stall, u, he, hw, by injection hn with hn; exact hn.symm⟩

theorem rmwClass_next {op : Op} {m : MemOperand} {modify : Byte → State → Byte × State}
    {after : Byte → State → State} {s t : State} (h : rmwClass op m modify after s = .next t) :
    ∃ e v w stall u, resolve m s = .ok e s ∧ busRead e.ea s = .ok v w ∧
      busWrite e.ea (modify v w).1 (modify v w).2 = .ok stall u ∧
      t = tick (charge op m.mode e.crossed + stall)
        ((after (modify v w).1 u).setPc ((after (modify v w).1 u).pcAfter m.mode)) := by
  unfold rmwClass at h
  obtain ⟨e, he⟩ := resolve_ok m s
  rw [he, Access.andThen_ok] at h
  obtain ⟨v, w, hv, h⟩ := Access.andThen_eq_next.1 h
  simp only at h
  obtain ⟨stall, u, hw, hn⟩ := Access.andThen_eq_next.1 h
  exact ⟨e, v, w, stall, u, he, hv, hw, by injection hn with hn; exact hn.symm⟩

/-- The operand form of a well-formed instruction is one of its operation's. -/
theorem mode_mem {i : Instr} {op : Op} (ho : i.op = some op) (h : i.wellFormed = true) : i.mode ∈ op.modes := by
  simp only [Instr.wellFormed, Instr.formExists, ho, Bool.and_eq_true] at h
  simpa using h.1

end Sys2Proof.Machine
end

