-- ==== Sys2Proof/Laws/Encoding.lean ====
section
/-! SUPPORT. The Opcode Table against the grids of well-formed forms: every form has its entry, and the
entry's code leads back to it. -/

namespace Sys2Proof

/-- A well-formed instruction's operand form is one that its operation has. -/
theorem wellFormed_formExists {i : Instr} (h : i.wellFormed = true) : i.formExists = true := by
  simp only [Instr.wellFormed, Bool.and_eq_true] at h
  exact h.1

/-- A code that a well-formed instruction carries is one of its rule's. -/
theorem wellFormed_codeExists {i : Instr} (h : i.wellFormed = true) : i.codeExists = true := by
  simp only [Instr.wellFormed, Bool.and_eq_true] at h
  exact h.2

/-- The entry of an operation and a mode, and that its code is found again. -/
def hasEntry (op : Op) (m : Mode) : Bool :=
  match entryOf op m with
  | some e => decide (lookup e.code = some e ∧ e.op = op ∧ e.mode = m)
  | none => false

theorem hasEntry_of_mem (op : Op) : ∀ m ∈ op.modes, hasEntry op m = true := by
  cases op <;> decide

/-- Every form of the grids of R148 and R149 has a table entry, whose code has no other (R146, R147). -/
theorem entryOf_form {op : Op} {m : Mode} (h : m ∈ op.modes) :
    ∃ e, entryOf op m = some e ∧ lookup e.code = some e ∧ e.op = op ∧ e.mode = m := by
  have := hasEntry_of_mem op m h
  unfold hasEntry at this
  split at this
  · exact ⟨_, ‹_›, of_decide_eq_true this⟩
  · cases this

/-- The code of a well-formed instruction that carries none is its form's. -/
theorem lookup_form {i : Instr} {op : Op} (ho : i.op = some op) (h : i.wellFormed = true)
    (hc : i.code = ((i.op.bind fun op => entryOf op i.mode).map Entry.code).getD 0x02) :
    ∃ e, lookup i.code = some e ∧ e.op = op ∧ e.mode = i.mode := by
  have hf := wellFormed_formExists h
  simp only [Instr.formExists, ho] at hf
  obtain ⟨e, he, hl, h1, h2⟩ := entryOf_form (by simpa using hf)
  have : i.code = e.code := by simp [hc, ho, he]
  exact ⟨e, by rw [this, hl], h1, h2⟩

/-- The codes of R360, mode by mode. -/
theorem lookup_nopCode (code : Byte) (o : NopOperand) (h : (nopUndocCodes o.mode).contains code = true) :
    ∃ e, lookup code = some e ∧ e.op = .nopUndoc ∧ e.mode = o.mode := by
  have key : ∀ m : Mode, ∀ c ∈ nopUndocCodes m, (lookup c).map (fun e => (e.op, e.mode)) = some (.nopUndoc, m) := by
    intro m; cases m <;> decide
  have hk := key o.mode code (by simpa using h)
  obtain ⟨e, he, hp⟩ := Option.map_eq_some_iff.1 hk
  exact ⟨e, he, congrArg Prod.fst hp, congrArg Prod.snd hp⟩

/-- The 29 absent codes of R150 have no entry. -/
theorem lookup_absent (code : Byte) (h : absentCodes.contains code = true) : lookup code = none := by
  have key : ∀ c ∈ absentCodes, lookup c = none := by decide
  exact key code (by simpa using h)

/-- An entry found by a code has that code (R146). -/
theorem lookup_code {c : Byte} {e : Entry} (h : lookup c = some e) : e.code = c := by
  have := List.find?_some h
  simpa using this

/-- Decoding at a code with an entry, by the length of the entry's mode (R140). -/
theorem decode_some {c : Byte} {e : Entry} (h : lookup c = some e) (l : List Byte) :
    decode (c :: l) = (match e.mode.length, l with
      | 1, _ => .ok ((e.assemble 0 0).getD (.undefined c), l)
      | 2, b1 :: rest => .ok ((e.assemble b1 0).getD (.undefined c), rest)
      | 3, b1 :: b2 :: rest => .ok ((e.assemble b1 b2).getD (.undefined c), rest)
      | n, _ => .error (.truncated c n)) := by
  have h1 : codeLength c = e.mode.length := by simp [codeLength, h]
  have h2 : ∀ b1 b2, decodeBytes c b1 b2 = (e.assemble b1 b2).getD (.undefined c) := by
    intro b1 b2; simp [decodeBytes, h]
  simp only [decode, h1, h2] <;> rfl

end Sys2Proof
end

