-- ==== Sys2Proof/Laws/Time.lean ====
section
/-! SUPPORT. Time: what Tick leaves alone, and the PPU's position after n dots. -/

namespace Sys2Proof.Machine

/-! ## What a Tick leaves alone -/

section tick
variable (n : Nat) (s : State)

@[simp] theorem tick_a : (tick n s).a = s.a := rfl
@[simp] theorem tick_x : (tick n s).x = s.x := rfl
@[simp] theorem tick_y : (tick n s).y = s.y := rfl
@[simp] theorem tick_sp : (tick n s).sp = s.sp := rfl
@[simp] theorem tick_p : (tick n s).p = s.p := rfl
@[simp] theorem tick_pc : (tick n s).pc = s.pc := rfl
@[simp] theorem tick_run : (tick n s).run = s.run := rfl
@[simp] theorem tick_ram : (tick n s).ram = s.ram := rfl
@[simp] theorem tick_prgRam : (tick n s).prgRam = s.prgRam := rfl
@[simp] theorem tick_prg : (tick n s).prg = s.prg := rfl
@[simp] theorem tick_prgSize : (tick n s).prgSize = s.prgSize := rfl
@[simp] theorem tick_cycles : (tick n s).cycles = s.cycles + n := rfl
@[simp] theorem tick_strobe : (tick n s).strobe = s.strobe := rfl
@[simp] theorem tick_cursor : (tick n s).cursor = s.cursor := rfl
@[simp] theorem tick_buttons : (tick n s).buttons = s.buttons := rfl
@[simp] theorem tick_config : (tick n s).config = s.config := rfl
@[simp] theorem tick_draws : (tick n s).draws = s.draws := rfl
@[simp] theorem tick_flag (f : Flag) : (tick n s).flag f = s.flag f := rfl

end tick

theorem Ppu.SameData.rfl' (p : Ppu) : Ppu.SameData p p := by constructor <;> rfl

theorem Ppu.SameData.trans {p q r : Ppu} (h : Ppu.SameData p q) (k : Ppu.SameData q r) : Ppu.SameData p r := by
  constructor
  · rw [k.ctrl, h.ctrl]
  · rw [k.mask, h.mask]
  · rw [k.oamAddr, h.oamAddr]
  · rw [k.vramAddr, h.vramAddr]
  · rw [k.w, h.w]
  · rw [k.scrollX, h.scrollX]
  · rw [k.scrollY, h.scrollY]
  · rw [k.readBuf, h.readBuf]
  · rw [k.mirroring, h.mirroring]
  · rw [k.chrRom, h.chrRom]
  · rw [k.chr, h.chr]
  · rw [k.vram, h.vram]
  · rw [k.palette, h.palette]
  · rw [k.oam, h.oam]

theorem sameData_spriteEval (r : SpriteEval) (p : Ppu) : Ppu.SameData p (spriteEval r p) := by
  constructor <;> rfl

theorem sameData_enterLine (p : Ppu) : Ppu.SameData p p.enterLine := by
  unfold Ppu.enterLine; split <;> constructor <;> rfl

theorem sameData_wrapFrame (p : Ppu) : Ppu.SameData p p.wrapFrame.1 := by
  unfold Ppu.wrapFrame; split <;> constructor <;> rfl

theorem sameData_ppuLine (r : SpriteEval) (p : Ppu) : Ppu.SameData p (ppuLine r p).1 := by
  refine (sameData_spriteEval r p).trans (.trans ?_ ((sameData_enterLine _).trans (sameData_wrapFrame _)))
  constructor <;> rfl

theorem sameData_ppuLines (r : SpriteEval) (n : Nat) (p : Ppu) : Ppu.SameData p (ppuLines r n p).1 := by
  induction n generalizing p with
  | zero => exact .rfl' p
  | succ n ih =>
    simp only [ppuLines]
    split
    · exact .rfl' p
    · exact (sameData_ppuLine r p).trans (ih _)

/-- Time moves nothing of the PPU but its status flags, its position and the pending NMI. -/
theorem sameData_ppuTick (r : SpriteEval) (n : Nat) (p : Ppu) : Ppu.SameData p (ppuTick r n p).1 := by
  refine .trans ?_ (sameData_ppuLines r _ _)
  constructor <;> rfl

theorem sameData_tick (n : Nat) (s : State) : Ppu.SameData s.ppu (tick n s).ppu := sameData_ppuTick _ _ _

/-! ## The position -/

@[simp] theorem spriteEval_dot (r : SpriteEval) (p : Ppu) : (spriteEval r p).dot = p.dot := rfl

@[simp] theorem spriteEval_scanline (r : SpriteEval) (p : Ppu) : (spriteEval r p).scanline = p.scanline := rfl

@[simp] theorem spriteEval_vblank (r : SpriteEval) (p : Ppu) : (spriteEval r p).vblank = p.vblank := rfl

@[simp] theorem spriteEval_nmiPending (r : SpriteEval) (p : Ppu) : (spriteEval r p).nmiPending = p.nmiPending := rfl

@[simp] theorem spriteEval_nmiEnable (r : SpriteEval) (p : Ppu) : (spriteEval r p).nmiEnable = p.nmiEnable := rfl

/-- The default `SPRITE_EVAL`, as R415 writes it. -/
theorem spriteEval_standard (p : Ppu) :
    spriteEval .standard p =
      if (p.oam.read 0).toNat = p.scanline ∧ p.showSprites = true then { p with sprite0Hit := true } else p := by
  have hm : p.holds (.bit .mask 4) = p.showSprites := rfl
  have ho : p.holds (.eq (.oam 0) .scanline) = ((p.oam.read 0).toNat == p.scanline) := rfl
  simp only [spriteEval, SpriteEval.standard, Ppu.spriteAction, hm, ho, beq_iff_eq]
  split <;> split <;> simp_all

/-- The end of a scanline: the position, vblank and the pending NMI (R414). -/
theorem ppuLine_facts (r : SpriteEval) (p : Ppu) :
    let q := (ppuLine r p).1
    q.dot = p.dot - 341 ∧
    q.scanline = (if p.scanline + 1 = 262 then 0 else p.scanline + 1) ∧
    q.vblank = (if p.scanline + 1 = 262 then false else if p.scanline + 1 = 241 then true else p.vblank) ∧
    q.nmiPending = (if p.scanline + 1 = 262 then false
      else if p.scanline + 1 = 241 then p.nmiPending || p.nmiEnable else p.nmiPending) ∧
    (ppuLine r p).2 = decide (p.scanline + 1 = 262) := by
  have he : ∀ q : Ppu, q.nmiEnable = q.ctrl.getLsbD 7 := fun _ => rfl
  have hc := (sameData_spriteEval r p).ctrl
  simp only [ppuLine, Ppu.enterLine, Ppu.wrapFrame, spriteEval_dot, spriteEval_scanline]
  by_cases h : p.scanline + 1 = 241
  · simp [h, he, hc]
  · by_cases h' : p.scanline + 1 = 262 <;> simp [h, h']

/-- What holds between Ticks (R66, R413, R414). -/
structure Ppu.Timed (p : Ppu) : Prop where
  line   : p.scanline < 262
  vblank : p.vblank = true → 241 ≤ p.scanline
  nmi    : p.nmiPending = true → 241 ≤ p.scanline

theorem timed_ppuLine (r : SpriteEval) {p : Ppu} (h : p.Timed) : (ppuLine r p).1.Timed := by
  obtain ⟨-, hs, hv, hn, -⟩ := ppuLine_facts r p
  have h1 := h.line
  have h2 := h.vblank
  have h3 := h.nmi
  constructor
  · rw [hs]; split <;> omega
  · rw [hs, hv]; split
    · simp
    · split
      · omega
      · intro hx; have := h2 hx; omega
  · rw [hs, hn]; split
    · simp
    · split
      · omega
      · intro hx; have := h3 hx; omega

/-- R414's loop with enough rounds: the position moves modulo the frame, and stays in range. -/
theorem ppuLines_position (r : SpriteEval) (n : Nat) {p : Ppu} (h : p.scanline < 262) (hn : p.dot / 341 ≤ n) :
    (ppuLines r n p).1.InFrame ∧ (ppuLines r n p).1.position = p.position % frameDots := by
  induction n generalizing p with
  | zero => refine ⟨⟨h, ?_⟩, ?_⟩ <;> simp only [ppuLines, Ppu.position, frameDots] <;> omega
  | succ n ih =>
    simp only [ppuLines]
    split
    · refine ⟨⟨h, ‹_›⟩, ?_⟩
      simp only [Ppu.position, frameDots]; omega
    · obtain ⟨hd, hs, -⟩ := ppuLine_facts r p
      obtain ⟨i1, i2⟩ := ih (p := (ppuLine r p).1) (by rw [hs]; split <;> omega) (by rw [hd]; omega)
      refine ⟨i1, ?_⟩
      rw [i2]
      simp only [Ppu.position, frameDots, hd, hs]
      split <;> omega

/-- `PpuTick(n)` moves the position by n dots modulo the frame, whatever `SPRITE_EVAL` is (R413, R414). -/
theorem ppuTick_position (r : SpriteEval) (n : Nat) {p : Ppu} (h : p.InFrame) :
    (ppuTick r n p).1.InFrame ∧ (ppuTick r n p).1.position = (p.position + n) % frameDots := by
  obtain ⟨i1, i2⟩ := ppuLines_position (p := { p with dot := p.dot + n }) r ((p.dot + n) / 341) h.1 (Nat.le_refl _)
  refine ⟨i1, i2.trans ?_⟩
  simp only [Ppu.position, Nat.add_assoc]

theorem timed_ppuLines (r : SpriteEval) (n : Nat) {p : Ppu} (h : p.Timed) : (ppuLines r n p).1.Timed := by
  induction n generalizing p with
  | zero => exact h
  | succ n ih =>
    simp only [ppuLines]
    split
    · exact h
    · exact ih (timed_ppuLine r h)

/-- A Tick leaves VBLANK and a pending NMI only in lines 241 to 261. -/
theorem timed_ppuTick (r : SpriteEval) (n : Nat) {p : Ppu} (h : p.Timed) : (ppuTick r n p).1.Timed :=
  timed_ppuLines r _ ⟨h.line, h.vblank, h.nmi⟩

end Sys2Proof.Machine
end

