-- ==== Sys2Proof/Laws/Kept.lean ====
section
/-! SUPPORT. The one inversion of the machine: a predicate that every primitive update keeps is kept by every
bus access, by every instruction up to its one Tick, and by the state a fault leaves. Whole-machine
claims are instances of `Kept`. -/

namespace Sys2Proof.Machine

/-- `P` holds of the state that a bus access leaves, and a fault is raised in a state of `P`. -/
def Access.Holds {α : Type} (P : State → Prop) : Access α → Prop
  | .ok _ t => P t
  | .fault f => ∃ u i, P u ∧ f = raise i u

/-- What an instruction leaves: one Tick after a state of `P` (and a halt after it for BRK), or a fault raised in
a state of `P`. -/
def TicksFrom (P : State → Prop) : StepOutcome → Prop
  | .next t => ∃ n u, P u ∧ (t = tick n u ∨ t = (tick n u).setRun .halted)
  | .fault f => ∃ u i, P u ∧ f = raise i u
  | .refused _ => False

/-- Every primitive update of a bus access keeps `P`. -/
structure KeptByBus (P : State → Prop) : Prop where
  draw      : ∀ s, P s → P (s.setDraws (s.draws + 1))
  status    : ∀ s, P s → P (s.setPpu s.ppu.afterStatusRead)
  increment : ∀ s, P s → P (s.setPpu s.ppu.increment)
  readBuf   : ∀ s b, P s → P (s.setPpu { s.ppu with readBuf := b })
  ctrl      : ∀ s v, P s → P (s.setPpu (s.ppu.writeCtrl v))
  mask      : ∀ s v, P s → P (s.setPpu { s.ppu with mask := v })
  oamAddr   : ∀ s v, P s → P (s.setPpu { s.ppu with oamAddr := v })
  oam       : ∀ s v, P s → P (s.setPpu (s.ppu.writeOam v))
  scroll    : ∀ s v, P s → P (s.setPpu (s.ppu.writeScroll v))
  addr      : ∀ s v, P s → P (s.setPpu (s.ppu.writeAddr v))
  chr       : ∀ s i v, i < 0x2000 → s.ppu.chrRom = false → P s → P (s.setPpu { s.ppu with chr := s.ppu.chr.write i v })
  vram      : ∀ s i v, i < 0x800 → P s → P (s.setPpu { s.ppu with vram := s.ppu.vram.write i v })
  palette   : ∀ s i v, i < 0x20 → P s → P (s.setPpu { s.ppu with palette := s.ppu.palette.write i v })
  cursor    : ∀ s, s.cursor < 8 → s.strobe = false → P s → P (s.setCursor (s.cursor + 1))
  latch     : ∀ s v, P s → P (latchWrite v s)
  ram       : ∀ s i v, i < 0x800 → P s → P (s.setRam (s.ram.write i v))
  prgRam    : ∀ s i v, i < 0x2000 → P s → P (s.setPrgRam (s.prgRam.write i v))

/-- Every primitive update of an instruction keeps `P`. -/
structure Kept (P : State → Prop) : Prop extends KeptByBus P where
  setA      : ∀ s v, P s → P (s.setA v)
  setX      : ∀ s v, P s → P (s.setX v)
  setY      : ∀ s v, P s → P (s.setY v)
  setSp     : ∀ s v, P s → P (s.setSp v)
  setPc     : ∀ s v, P s → P (s.setPc v)
  setFlag   : ∀ s f b, f ≠ .b → f ≠ .u → P s → P (s.setFlag f b)
  loadP     : ∀ s v, P s → P (s.setP (withoutBreak v))

/-! ## Sequencing -/

theorem Access.Holds.bind {α β : Type} {P : State → Prop} {r : Access α} {k : α → State → Access β}
    (hr : r.Holds P) (hk : ∀ v t, P t → (k v t).Holds P) : (r.bind k).Holds P := by
  cases r with
  | ok v t => exact hk v t hr
  | fault f => exact hr

theorem Access.Holds.andThen {α : Type} {P : State → Prop} {r : Access α} {k : α → State → StepOutcome}
    (hr : r.Holds P) (hk : ∀ v t, P t → TicksFrom P (k v t)) : TicksFrom P (r.andThen k) := by
  cases r with
  | ok v t => exact hk v t hr
  | fault f => exact hr

theorem Access.Holds.of_ok {α : Type} {P : State → Prop} {r : Access α} {v : α} {t : State}
    (hr : r.Holds P) (h : r = .ok v t) : P t := by subst h; exact hr

theorem Access.Holds.of_fault {α : Type} {P : State → Prop} {r : Access α} {f : Fault}
    (hr : r.Holds P) (h : r = .fault f) : ∃ u i, P u ∧ f = raise i u := by subst h; exact hr

@[simp] theorem left_faultWith (i : FaultInfo) (s : State) : (faultWith i s).left = s := by cases i <;> rfl

@[simp] theorem info_faultWith (i : FaultInfo) (s : State) : (faultWith i s).info = i := by cases i <;> rfl

@[simp] theorem left_raise (i : FaultInfo) (s : State) : (raise i s).left = s.setRun (.faulted i) := left_faultWith _ _

@[simp] theorem info_raise (i : FaultInfo) (s : State) : (raise i s).info = i := info_faultWith _ _

/-! ## Bus accesses -/

namespace KeptByBus
variable {P : State → Prop} (hP : KeptByBus P)
include hP

theorem illegalRead (a : Addr) {s : State} (h : P s) : (illegalRead a s).Holds P := by
  unfold Machine.illegalRead
  split
  · exact ⟨_, _, h, rfl⟩
  · exact hP.draw s h

omit hP in
theorem illegalWrite (a : Addr) {s : State} (h : P s) : (Machine.illegalWrite a s).Holds P := by
  unfold Machine.illegalWrite
  split
  · exact ⟨_, _, h, rfl⟩
  · exact h

omit hP in
theorem ppuRead (p : VAddr) {s : State} (h : P s) : (Machine.ppuRead p s).Holds P := by
  unfold Machine.ppuRead
  split
  · exact h
  · exact h
  · exact h
  · exact ⟨_, _, h, rfl⟩

theorem ppuWrite (a : Addr) (p : VAddr) (v : Byte) {s : State} (h : P s) : (ppuWrite a p v s).Holds P := by
  unfold Machine.ppuWrite
  split
  · next i hc =>
    split
    · exact illegalWrite a h
    · next hrom => exact hP.chr s i v (ppuCell_chr_lt hc) (by simpa using hrom) h
  · next i hc => exact hP.vram s i v (ppuCell_vram_lt hc) h
  · next i hc => exact hP.palette s i v (ppuCell_palette_lt hc) h
  · exact ⟨_, _, h, rfl⟩

theorem dataRead {s : State} (h : P s) : (dataRead s).Holds P := by
  unfold Machine.dataRead
  simp only
  split
  · exact (ppuRead _ (hP.increment s h)).bind fun b t ht => hP.readBuf t b ht
  · exact hP.increment s h

theorem dataWrite (a : Addr) (v : Byte) {s : State} (h : P s) : (dataWrite a v s).Holds P :=
  (hP.ppuWrite a _ v h).bind fun _ t ht => hP.increment t ht

theorem ppuRegRead (a : Addr) {s : State} (h : P s) : (ppuRegRead a s).Holds P := by
  unfold Machine.ppuRegRead
  split
  · exact hP.status s h
  · exact h
  · exact hP.dataRead h
  · exact hP.illegalRead a h

theorem ppuRegWrite (a : Addr) (v : Byte) {s : State} (h : P s) : (ppuRegWrite a v s).Holds P := by
  unfold Machine.ppuRegWrite
  split
  · exact hP.ctrl s v h
  · exact hP.mask s v h
  · exact illegalWrite a h
  · exact hP.oamAddr s v h
  · exact hP.oam s v h
  · exact hP.scroll s v h
  · exact hP.addr s v h
  · exact hP.dataWrite a v h

theorem latchRead {s : State} (h : P s) : (latchRead s).Holds P := by
  unfold Machine.latchRead
  split
  · exact h
  · next hc =>
    simp only [Access.Holds]
    split
    · exact h
    · next hs => exact hP.cursor s (by omega) (by simpa using hs) h

theorem read (a : Addr) {s : State} (h : P s) : (busRead a s).Holds P := by
  unfold busRead
  split
  · exact h
  · exact hP.ppuRegRead a h
  · exact h
  · exact hP.illegalRead a h
  · exact hP.latchRead h
  · exact h
  · exact h

theorem oamCopy (page : Byte) (n : Nat) (i : Byte) {s : State} (h : P s) : (oamCopy page n i s).Holds P := by
  induction n generalizing i s with
  | zero => exact h
  | succ n ih => exact (hP.read _ h).bind fun b t ht => ih (i + 1) (hP.oam t b ht)

theorem write (a : Addr) (v : Byte) {s : State} (h : P s) : (busWrite a v s).Holds P := by
  unfold busWrite
  split
  · next i hc => exact hP.ram s i v (busCell_ram_lt hc) h
  · exact (hP.ppuRegWrite a v h).bind fun _ _ ht => ht
  · exact h
  · exact (hP.oamCopy v 256 0 h).bind fun _ _ ht => ht
  · exact hP.latch s v h
  · next i hc => exact hP.prgRam s i v (busCell_prgRam_lt hc) h
  · exact (illegalWrite a h).bind fun _ _ ht => ht

theorem read16 (a : Addr) {s : State} (h : P s) : (busRead16 a s).Holds P :=
  (hP.read a h).bind fun _ _ ht => (hP.read _ ht).bind fun _ _ hu => hu

omit hP in
theorem resolve (m : MemOperand) {s : State} (h : P s) : (Machine.resolve m s).Holds P := by
  obtain ⟨e, he⟩ := resolve_ok m s
  rw [he]; exact h

theorem resolveIndirect (p : Addr) {s : State} (h : P s) : (resolveIndirect p s).Holds P :=
  (hP.read p h).bind fun _ _ ht => (hP.read _ ht).bind fun _ _ hu => hu

theorem readSource (o : Source) {s : State} (h : P s) : (readSource o s).Holds P := by
  cases o with
  | imm v => exact h
  | mem m => exact (resolve m h).bind fun _ _ ht => (hP.read _ ht).bind fun _ _ hu => hu

theorem fetchOperands (n : Nat) {s : State} (h : P s) : (fetchOperands n s).Holds P := by
  unfold Machine.fetchOperands
  split
  · exact h
  · exact (hP.read _ h).bind fun _ _ ht => ht
  · exact (hP.read _ h).bind fun _ _ ht => (hP.read _ ht).bind fun _ _ hu => hu

end KeptByBus

namespace Kept
variable {P : State → Prop} (hP : Kept P)
include hP

theorem push (v : Byte) {s : State} (h : P s) : (push v s).Holds P :=
  (hP.write _ v h).bind fun _ t ht => hP.setSp t _ ht

theorem pull {s : State} (h : P s) : (pull s).Holds P := hP.read _ (hP.setSp s _ h)

theorem push16 (v : Addr) {s : State} (h : P s) : (push16 v s).Holds P :=
  (hP.push _ h).bind fun _ _ ht => hP.push _ ht

theorem pull16 {s : State} (h : P s) : (pull16 s).Holds P :=
  (hP.pull h).bind fun _ _ ht => (hP.pull ht).bind fun _ _ hu => hu

theorem pullFrame {s : State} (h : P s) : (pullFrame s).Holds P :=
  (hP.pull h).bind fun p t ht => hP.pull16 (hP.loadP t p ht)

theorem fetch {s : State} (h : P s) : (fetch s).Holds P :=
  (hP.read _ h).bind fun _ t ht => (hP.fetchOperands _ (hP.setPc t _ ht)).bind fun _ _ hu => hu

/-! ## Effects on registers and flags -/

theorem setZN {s : State} (v : Byte) (h : P s) : P (s.setZN v) :=
  hP.setFlag _ _ _ (by decide) (by decide) (hP.setFlag _ _ _ (by decide) (by decide) h)

theorem addCore {s : State} (k : Byte) (h : P s) : P (addCore k s) :=
  hP.setZN _ (hP.setA _ _ (hP.setFlag _ _ _ (by decide) (by decide) (hP.setFlag _ _ _ (by decide) (by decide) h)))

theorem compareCore {s : State} (r k : Byte) (h : P s) : P (compareCore r k s) :=
  hP.setFlag _ _ _ (by decide) (by decide) (hP.setFlag _ _ _ (by decide) (by decide)
    (hP.setFlag _ _ _ (by decide) (by decide) h))

theorem bitCore {s : State} (m : Byte) (h : P s) : P (bitCore m s) :=
  hP.setFlag _ _ _ (by decide) (by decide) (hP.setFlag _ _ _ (by decide) (by decide)
    (hP.setFlag _ _ _ (by decide) (by decide) h))

theorem carryCore {s : State} (b : Bool) (h : P s) : P (s.setFlag .c b) :=
  hP.setFlag _ _ _ (by decide) (by decide) h

/-! ## Instruction classes -/

theorem finish (next : Addr) (n : Nat) {s : State} (h : P s) : TicksFrom P (finish next n s) := by
  unfold Machine.finish
  exact ⟨n, _, hP.setPc s next h, .inl rfl⟩

theorem advance (op : Op) (m : Mode) (c : Bool) (e : Nat) {s : State} (h : P s) :
    TicksFrom P (advance op m c e s) := by
  unfold Machine.advance
  exact hP.finish _ _ h

theorem readClass (op : Op) (o : Source) {effect : Byte → State → State}
    (he : ∀ v t, P t → P (effect v t)) {s : State} (h : P s) : TicksFrom P (readClass op o effect s) := by
  unfold Machine.readClass
  exact (hP.readSource o h).andThen fun r t ht => hP.advance op _ _ _ (he r.1 t ht)

theorem writeClass (op : Op) (m : MemOperand) (value : State → Byte) {s : State} (h : P s) :
    TicksFrom P (writeClass op m value s) := by
  unfold Machine.writeClass
  exact (KeptByBus.resolve m h).andThen fun e t ht => (hP.write e.ea (value t) ht).andThen fun x _ hu => hP.advance op _ _ x hu

theorem rmwClass (op : Op) (m : MemOperand) {modify : Byte → State → Byte × State}
    {after : Byte → State → State} (hm : ∀ v t, P t → P (modify v t).2) (ha : ∀ v t, P t → P (after v t))
    {s : State} (h : P s) : TicksFrom P (rmwClass op m modify after s) := by
  unfold Machine.rmwClass
  exact (KeptByBus.resolve m h).andThen fun e t ht => (hP.read e.ea ht).andThen fun v u hu =>
    (hP.write e.ea _ (hm v u hu)).andThen fun x _ hw => hP.advance op _ _ x (ha _ _ hw)

theorem impliedClass (op : Op) {effect : State → State} (he : ∀ t, P t → P (effect t)) {s : State} (h : P s) :
    TicksFrom P (impliedClass op effect s) := by
  unfold Machine.impliedClass
  exact hP.advance op _ _ _ (he s h)

theorem shiftClass (op : Op) (o : ShiftOperand) {core : Byte → State → Byte × State}
    (hc : ∀ v t, P t → P (core v t).2) {s : State} (h : P s) : TicksFrom P (shiftClass op o core s) := by
  unfold Machine.shiftClass
  cases o with
  | acc => exact hP.advance op _ _ _ (hP.setZN _ (hP.setA _ _ (hc _ s h)))
  | mem m => exact hP.rmwClass op m hc (fun _ _ ht => hP.setZN _ ht) h

theorem branch (op : Op) (cond : State → Bool) (d : Byte) {s : State} (h : P s) :
    TicksFrom P (branch op cond d s) := by
  unfold Machine.branch
  simp only
  split
  · exact hP.finish _ _ h
  · exact hP.finish _ _ h

/-- Every instruction either ticks once from a state of `P`, or faults and leaves a state of `P`. -/
theorem exec (i : Instr) {s : State} (h : P s) : TicksFrom P (exec i s) := by
  have c : ∀ (v : Byte) (t : State) (b : Bool), P t → P (t.setFlag .c b) := fun _ t b ht => hP.carryCore b ht
  cases i with
  | lda o =>
    show TicksFrom P (execLda o s); unfold execLda
    exact hP.readClass _ o (fun v t ht => hP.setZN _ (hP.setA t v ht)) h
  | ldx o =>
    show TicksFrom P (execLdx o s); unfold execLdx
    exact hP.readClass _ o (fun v t ht => hP.setZN _ (hP.setX t v ht)) h
  | ldy o =>
    show TicksFrom P (execLdy o s); unfold execLdy
    exact hP.readClass _ o (fun v t ht => hP.setZN _ (hP.setY t v ht)) h
  | sta m =>
    show TicksFrom P (execSta m s); unfold execSta
    exact hP.writeClass _ m _ h
  | stx m =>
    show TicksFrom P (execStx m s); unfold execStx
    exact hP.writeClass _ m _ h
  | sty m =>
    show TicksFrom P (execSty m s); unfold execSty
    exact hP.writeClass _ m _ h
  | tax =>
    show TicksFrom P (execTax s); unfold execTax
    exact hP.impliedClass _ (fun t ht => hP.setZN _ (hP.setX t _ ht)) h
  | tay =>
    show TicksFrom P (execTay s); unfold execTay
    exact hP.impliedClass _ (fun t ht => hP.setZN _ (hP.setY t _ ht)) h
  | txa =>
    show TicksFrom P (execTxa s); unfold execTxa
    exact hP.impliedClass _ (fun t ht => hP.setZN _ (hP.setA t _ ht)) h
  | tya =>
    show TicksFrom P (execTya s); unfold execTya
    exact hP.impliedClass _ (fun t ht => hP.setZN _ (hP.setA t _ ht)) h
  | tsx =>
    show TicksFrom P (execTsx s); unfold execTsx
    exact hP.impliedClass _ (fun t ht => hP.setZN _ (hP.setX t _ ht)) h
  | txs =>
    show TicksFrom P (execTxs s); unfold execTxs
    exact hP.impliedClass _ (fun t ht => hP.setSp t _ ht) h
  | adc o =>
    show TicksFrom P (execAdc o s); unfold execAdc
    exact hP.readClass _ o (fun v t ht => hP.addCore v ht) h
  | sbc o =>
    show TicksFrom P (execSbc o s); unfold execSbc
    exact hP.readClass _ o (fun v t ht => hP.addCore _ ht) h
  | and o =>
    show TicksFrom P (execAnd o s); unfold execAnd
    exact hP.readClass _ o (fun v t ht => hP.setZN _ (hP.setA t _ ht)) h
  | ora o =>
    show TicksFrom P (execOra o s); unfold execOra
    exact hP.readClass _ o (fun v t ht => hP.setZN _ (hP.setA t _ ht)) h
  | eor o =>
    show TicksFrom P (execEor o s); unfold execEor
    exact hP.readClass _ o (fun v t ht => hP.setZN _ (hP.setA t _ ht)) h
  | cmp o =>
    show TicksFrom P (execCmp o s); unfold execCmp
    exact hP.readClass _ o (fun v t ht => hP.compareCore _ _ ht) h
  | cpx o =>
    show TicksFrom P (execCpx o s); unfold execCpx
    exact hP.readClass _ o (fun v t ht => hP.compareCore _ _ ht) h
  | cpy o =>
    show TicksFrom P (execCpy o s); unfold execCpy
    exact hP.readClass _ o (fun v t ht => hP.compareCore _ _ ht) h
  | bit m =>
    show TicksFrom P (execBit m s); unfold execBit
    exact hP.readClass _ (.mem m) (fun v t ht => hP.bitCore _ ht) h
  | inc m =>
    show TicksFrom P (execInc m s); unfold execInc
    exact hP.rmwClass _ m (fun _ _ ht => ht) (fun _ _ ht => hP.setZN _ ht) h
  | dec m =>
    show TicksFrom P (execDec m s); unfold execDec
    exact hP.rmwClass _ m (fun _ _ ht => ht) (fun _ _ ht => hP.setZN _ ht) h
  | inx =>
    show TicksFrom P (execInx s); unfold execInx
    exact hP.impliedClass _ (fun t ht => hP.setZN _ (hP.setX t _ ht)) h
  | iny =>
    show TicksFrom P (execIny s); unfold execIny
    exact hP.impliedClass _ (fun t ht => hP.setZN _ (hP.setY t _ ht)) h
  | dex =>
    show TicksFrom P (execDex s); unfold execDex
    exact hP.impliedClass _ (fun t ht => hP.setZN _ (hP.setX t _ ht)) h
  | dey =>
    show TicksFrom P (execDey s); unfold execDey
    exact hP.impliedClass _ (fun t ht => hP.setZN _ (hP.setY t _ ht)) h
  | asl o =>
    show TicksFrom P (execAsl o s); unfold execAsl
    exact hP.shiftClass _ o (fun v t ht => c v t _ ht) h
  | lsr o =>
    show TicksFrom P (execLsr o s); unfold execLsr
    exact hP.shiftClass _ o (fun v t ht => c v t _ ht) h
  | rol o =>
    show TicksFrom P (execRol o s); unfold execRol
    exact hP.shiftClass _ o (fun v t ht => c v t _ ht) h
  | ror o =>
    show TicksFrom P (execRor o s); unfold execRor
    exact hP.shiftClass _ o (fun v t ht => c v t _ ht) h
  | jmp a =>
    show TicksFrom P (execJmp a s); unfold execJmp
    exact hP.finish _ _ h
  | jmpInd p =>
    show TicksFrom P (execJmpInd p s); unfold execJmpInd
    exact (hP.resolveIndirect p h).andThen fun _ _ ht => hP.finish _ _ ht
  | jsr a =>
    show TicksFrom P (execJsr a s); unfold execJsr
    exact (hP.push16 _ h).andThen fun _ _ ht => hP.finish _ _ ht
  | rts =>
    show TicksFrom P (execRts s); unfold execRts
    exact (hP.pull16 h).andThen fun _ _ ht => hP.finish _ _ ht
  | rti =>
    show TicksFrom P (execRti s); unfold execRti
    exact (hP.pullFrame h).andThen fun _ _ ht => hP.finish _ _ ht
  | bpl d =>
    show TicksFrom P (execBpl d s); unfold execBpl
    exact hP.branch _ _ d h
  | bmi d =>
    show TicksFrom P (execBmi d s); unfold execBmi
    exact hP.branch _ _ d h
  | bvc d =>
    show TicksFrom P (execBvc d s); unfold execBvc
    exact hP.branch _ _ d h
  | bvs d =>
    show TicksFrom P (execBvs d s); unfold execBvs
    exact hP.branch _ _ d h
  | bcc d =>
    show TicksFrom P (execBcc d s); unfold execBcc
    exact hP.branch _ _ d h
  | bcs d =>
    show TicksFrom P (execBcs d s); unfold execBcs
    exact hP.branch _ _ d h
  | bne d =>
    show TicksFrom P (execBne d s); unfold execBne
    exact hP.branch _ _ d h
  | beq d =>
    show TicksFrom P (execBeq d s); unfold execBeq
    exact hP.branch _ _ d h
  | brk =>
    show TicksFrom P (execBrk s); unfold execBrk
    exact ⟨_, _, hP.setPc s _ h, .inr rfl⟩
  | nop =>
    show TicksFrom P (execNop s); unfold execNop
    exact hP.impliedClass _ (fun _ ht => ht) h
  | pha =>
    show TicksFrom P (execPha s); unfold execPha
    exact (hP.push _ h).andThen fun _ _ ht => hP.advance _ _ _ _ ht
  | pla =>
    show TicksFrom P (execPla s); unfold execPla
    exact (hP.pull h).andThen fun v t ht => hP.advance _ _ _ _ (hP.setZN _ (hP.setA t v ht))
  | php =>
    show TicksFrom P (execPhp s); unfold execPhp
    exact (hP.push _ h).andThen fun _ _ ht => hP.advance _ _ _ _ ht
  | plp =>
    show TicksFrom P (execPlp s); unfold execPlp
    exact (hP.pull h).andThen fun v t ht => hP.advance _ _ _ _ (hP.loadP t v ht)
  | clc =>
    show TicksFrom P (execClc s); unfold execClc
    exact hP.impliedClass _ (fun t ht => hP.setFlag t _ _ (by decide) (by decide) ht) h
  | sec =>
    show TicksFrom P (execSec s); unfold execSec
    exact hP.impliedClass _ (fun t ht => hP.setFlag t _ _ (by decide) (by decide) ht) h
  | cli =>
    show TicksFrom P (execCli s); unfold execCli
    exact hP.impliedClass _ (fun t ht => hP.setFlag t _ _ (by decide) (by decide) ht) h
  | sei =>
    show TicksFrom P (execSei s); unfold execSei
    exact hP.impliedClass _ (fun t ht => hP.setFlag t _ _ (by decide) (by decide) ht) h
  | cld =>
    show TicksFrom P (execCld s); unfold execCld
    exact hP.impliedClass _ (fun t ht => hP.setFlag t _ _ (by decide) (by decide) ht) h
  | sed =>
    show TicksFrom P (execSed s); unfold execSed
    exact hP.impliedClass _ (fun t ht => hP.setFlag t _ _ (by decide) (by decide) ht) h
  | clv =>
    show TicksFrom P (execClv s); unfold execClv
    exact hP.impliedClass _ (fun t ht => hP.setFlag t _ _ (by decide) (by decide) ht) h
  | lax m =>
    show TicksFrom P (execLax m s); unfold execLax
    exact hP.readClass _ (.mem m) (fun v t ht => hP.setZN _ (hP.setX _ v (hP.setA t v ht))) h
  | sax m =>
    show TicksFrom P (execSax m s); unfold execSax
    exact hP.writeClass _ m _ h
  | slo m =>
    show TicksFrom P (execSlo m s); unfold execSlo
    exact hP.rmwClass _ m (fun v t ht => c v t _ ht) (fun _ t ht => hP.setZN _ (hP.setA t _ ht)) h
  | rla m =>
    show TicksFrom P (execRla m s); unfold execRla
    exact hP.rmwClass _ m (fun v t ht => c v t _ ht) (fun _ t ht => hP.setZN _ (hP.setA t _ ht)) h
  | sre m =>
    show TicksFrom P (execSre m s); unfold execSre
    exact hP.rmwClass _ m (fun v t ht => c v t _ ht) (fun _ t ht => hP.setZN _ (hP.setA t _ ht)) h
  | rra m =>
    show TicksFrom P (execRra m s); unfold execRra
    exact hP.rmwClass _ m (fun v t ht => c v t _ ht) (fun _ _ ht => hP.addCore _ ht) h
  | dcp m =>
    show TicksFrom P (execDcp m s); unfold execDcp
    exact hP.rmwClass _ m (fun _ _ ht => ht) (fun _ _ ht => hP.compareCore _ _ ht) h
  | isb m =>
    show TicksFrom P (execIsb m s); unfold execIsb
    exact hP.rmwClass _ m (fun _ _ ht => ht) (fun _ _ ht => hP.addCore _ ht) h
  | nopUndoc k o =>
    show TicksFrom P (execNopUndoc k o s); unfold execNopUndoc
    cases o with
    | implied => exact hP.impliedClass _ (fun _ ht => ht) h
    | read o => exact hP.readClass _ o (fun _ _ ht => ht) h
  | sbcUndoc v =>
    show TicksFrom P (execSbcUndoc v s); unfold execSbcUndoc
    exact hP.readClass _ (.imm v) (fun _ _ ht => hP.addCore _ ht) h
  | undefined k =>
    exact ⟨_, _, h, rfl⟩

end Kept

/-! ## The NMI entry and the step -/

/-- The state in which the NMI entry has pushed its frame and set I (R393). -/
def nmiPushed (s : State) : State :=
  (((s.setRam (((s.ram.write (stackIndex s.sp) (highByte s.pc)).write (stackIndex (s.sp - 1)) (lowByte s.pc)).write
    (stackIndex (s.sp - 1 - 1)) (withoutBreak s.p))).setSp (s.sp - 1 - 1 - 1)).setFlag .i true)

/-- The NMI entry always completes: its accesses are stack RAM and PRG-ROM (R380, R393). -/
theorem nmiEntry_eq (s : State) :
    nmiEntry s = .next ((tick s.config.nmiEntryCycles (nmiPushed s)).setPc
      (addr16 (s.prg.read (0x7FFB % prgLength s.prgSize)) (s.prg.read (0x7FFA % prgLength s.prgSize)))) := by
  have collapse : ∀ (m n : Memory) (b c : Byte),
      ((((s.setRam m).setSp b).setRam n).setSp c).setFlag .i true = ((s.setRam n).setSp c).setFlag .i true :=
    fun _ _ _ _ => rfl
  simp only [nmiEntry, push16_eq, push_eq, Access.andThen_ok, State.setSp_ram, State.setRam_ram, State.setSp_sp,
    State.setSp_p, State.setRam_p, State.setSp_config, State.setRam_config, collapse]
  rw [busRead16_prgRom (by decide) (by decide)]
  rfl

/-- What a step of a running machine does: an NMI entry, or a fetch and the fetched instruction. -/
theorem step_running {s : State} (h : s.run = .running) :
    step s = runStep (s.setReport false false) := by
  simp only [step, h]

/-- A halted machine's step is its own state (R71; log 17). -/
theorem step_halted {s : State} (h : s.run = .halted) : step s = .next (s.setReport false false) := by
  unfold step; rw [h]

/-- A machine that was never reset raises NotReset (R72, R386). -/
theorem step_needsReset {s : State} (h : s.run = .needsReset) :
    step s = .fault (raise .notReset (s.setReport false false)) := by
  unfold step; rw [h]

/-- A faulted machine's step is its fault again (R386). -/
theorem step_faulted {s : State} {i : FaultInfo} (h : s.run = .faulted i) :
    step s = .fault (faultWith i (s.setReport false false)) := by
  unfold step; rw [h]

/-- Every step either stops where it stands, or ticks once from a state of `P`, or raises its fault in one, or
answers its fault again; the NMI entry loads PC after its tick. -/
theorem Kept.step {P : State → Prop} (hP : Kept P) (hReport : ∀ s, P s → P (s.setReport false false))
    (hPoll : ∀ s, P s → P (s.setPpu { s.ppu with nmiPending := false })) {s : State} (h : P s) :
    match Machine.step s with
    | .next t => P t ∨ ∃ n u, P u ∧ (t = tick n u ∨ t = (tick n u).setRun .halted ∨ ∃ v, t = (tick n u).setPc v)
    | .fault f => (∃ u i, P u ∧ f = raise i u) ∨ ∃ i, s.run = .faulted i ∧ f = faultWith i (s.setReport false false)
    | .refused _ => False := by
  have h0 := hReport s h
  simp only [Machine.step]
  split
  · next t ht =>
    split at ht
    · simp only [runStep] at ht
      split at ht
      · rw [nmiEntry_eq] at ht
        cases ht
        refine .inr ⟨_, _, ?_, .inr (.inr ⟨_, rfl⟩)⟩
        have hp := hPoll _ h0
        refine hP.setFlag _ _ _ (by decide) (by decide) (hP.setSp _ _ ?_)
        have w := fun (t : State) (ht : P t) (sp v : Byte) =>
          hP.ram t (stackIndex sp) v (by have := stackIndex_lt sp; omega) ht
        exact w _ (w _ (w _ hp _ _) _ _) _ _
      · have := (hP.fetch h0).andThen fun i u hu => hP.exec i hu
        rw [show (Machine.fetch (s.setReport false false)).andThen (fun i u => Machine.exec i u) = .next t from ht] at this
        obtain ⟨n, u, hu, rfl | rfl⟩ := this
        · exact .inr ⟨n, u, hu, .inl rfl⟩
        · exact .inr ⟨n, u, hu, .inr (.inl rfl)⟩
    · cases ht; exact .inl h0
    · cases ht
    · cases ht
  · next f hf =>
    split at hf
    · simp only [runStep] at hf
      split at hf
      · rw [nmiEntry_eq] at hf; cases hf
      · have := (hP.fetch h0).andThen fun i u hu => hP.exec i hu
        rw [show (Machine.fetch (s.setReport false false)).andThen (fun i u => Machine.exec i u) = .fault f from hf] at this
        exact .inl this
    · cases hf
    · next i hr => cases hf; exact .inr ⟨i, hr, rfl⟩
    · cases hf; exact .inl ⟨_, _, h0, rfl⟩
  · next q hq =>
    split at hq
    · simp only [runStep] at hq
      split at hq
      · rw [nmiEntry_eq] at hq; cases hq
      · have := (hP.fetch h0).andThen fun i u hu => hP.exec i hu
        rw [show (Machine.fetch (s.setReport false false)).andThen (fun i u => Machine.exec i u) = .refused q from hq] at this
        exact this
    · cases hq
    · cases hq
    · cases hq

end Sys2Proof.Machine
end

