-- ==== Sys2Proof/Laws/Frame.lean ====
section
/-! SUPPORT. What a bus access leaves alone: the CPU's registers and time for every access, all but the read side
effects for a read, and every byte but the stored one for a write. -/

namespace Sys2Proof.Machine

/-- Two states that differ at most in what a bus access may change. -/
structure SameCpu (s t : State) : Prop where
  a             : t.a = s.a
  x             : t.x = s.x
  y             : t.y = s.y
  sp            : t.sp = s.sp
  p             : t.p = s.p
  pc            : t.pc = s.pc
  run           : t.run = s.run
  prg           : t.prg = s.prg
  prgSize       : t.prgSize = s.prgSize
  cycles        : t.cycles = s.cycles
  buttons       : t.buttons = s.buttons
  config        : t.config = s.config
  frameEvent    : t.frameEvent = s.frameEvent
  frameComplete : t.frameComplete = s.frameComplete
  scanline      : t.ppu.scanline = s.ppu.scanline
  dot           : t.ppu.dot = s.ppu.dot
  mirroring     : t.ppu.mirroring = s.ppu.mirroring
  chrRom        : t.ppu.chrRom = s.ppu.chrRom

theorem SameCpu.rfl' (s : State) : SameCpu s s := by constructor <;> rfl

theorem SameCpu.flag {s t : State} (h : SameCpu s t) (f : Flag) : t.flag f = s.flag f := by
  simp only [State.flag, h.p]

theorem keptByBus_sameCpu (s : State) : KeptByBus (SameCpu s) := by
  have w : ∀ (p : Ppu) (v : Byte), (p.writeScroll v).scanline = p.scanline ∧ (p.writeScroll v).dot = p.dot ∧
      (p.writeScroll v).mirroring = p.mirroring ∧ (p.writeScroll v).chrRom = p.chrRom := by
    intro p v; unfold Ppu.writeScroll; split <;> exact ⟨rfl, rfl, rfl, rfl⟩
  have w' : ∀ (p : Ppu) (v : Byte), (p.writeAddr v).scanline = p.scanline ∧ (p.writeAddr v).dot = p.dot ∧
      (p.writeAddr v).mirroring = p.mirroring ∧ (p.writeAddr v).chrRom = p.chrRom := by
    intro p v; unfold Ppu.writeAddr; split <;> exact ⟨rfl, rfl, rfl, rfl⟩
  have set : ∀ (t : State) (q : Ppu), SameCpu s t → q.scanline = t.ppu.scanline → q.dot = t.ppu.dot →
      q.mirroring = t.ppu.mirroring → q.chrRom = t.ppu.chrRom → SameCpu s (t.setPpu q) :=
    fun t q h h1 h2 h3 h4 => ⟨h.a, h.x, h.y, h.sp, h.p, h.pc, h.run, h.prg, h.prgSize, h.cycles, h.buttons, h.config,
      h.frameEvent, h.frameComplete, h1.trans h.scanline, h2.trans h.dot, h3.trans h.mirroring, h4.trans h.chrRom⟩
  have other : ∀ t u : State, SameCpu s t → SameCpu t u → SameCpu s u := fun t u h k =>
    ⟨k.a.trans h.a, k.x.trans h.x, k.y.trans h.y, k.sp.trans h.sp, k.p.trans h.p, k.pc.trans h.pc, k.run.trans h.run,
      k.prg.trans h.prg, k.prgSize.trans h.prgSize, k.cycles.trans h.cycles, k.buttons.trans h.buttons,
      k.config.trans h.config, k.frameEvent.trans h.frameEvent, k.frameComplete.trans h.frameComplete,
      k.scanline.trans h.scanline, k.dot.trans h.dot, k.mirroring.trans h.mirroring, k.chrRom.trans h.chrRom⟩
  constructor
  case draw => exact fun t h => other t _ h (by constructor <;> rfl)
  case scroll => exact fun t v h => set t _ h (w _ v).1 (w _ v).2.1 (w _ v).2.2.1 (w _ v).2.2.2
  case addr => exact fun t v h => set t _ h (w' _ v).1 (w' _ v).2.1 (w' _ v).2.2.1 (w' _ v).2.2.2
  case cursor => exact fun t _ _ h => other t _ h (by constructor <;> rfl)
  case latch => exact fun t v h => other t _ h (by unfold latchWrite; split <;> constructor <;> rfl)
  case ram => exact fun t i v _ h => other t _ h (by constructor <;> rfl)
  case prgRam => exact fun t i v _ h => other t _ h (by constructor <;> rfl)
  case status => exact fun t h => set t _ h rfl rfl rfl rfl
  case increment => exact fun t h => set t _ h rfl rfl rfl rfl
  case readBuf => exact fun t b h => set t _ h rfl rfl rfl rfl
  case ctrl => exact fun t v h => set t _ h rfl rfl rfl rfl
  case mask => exact fun t v h => set t _ h rfl rfl rfl rfl
  case oamAddr => exact fun t v h => set t _ h rfl rfl rfl rfl
  case oam => exact fun t v h => set t _ h rfl rfl rfl rfl
  case chr => exact fun t i v _ _ h => set t _ h rfl rfl rfl rfl
  case vram => exact fun t i v _ h => set t _ h rfl rfl rfl rfl
  case palette => exact fun t i v _ h => set t _ h rfl rfl rfl rfl

theorem busRead_cpu {a : Addr} {s t : State} {v : Byte} (h : busRead a s = .ok v t) : SameCpu s t :=
  ((keptByBus_sameCpu s).read a (.rfl' s)).of_ok h

theorem busWrite_cpu {a : Addr} {s t : State} {v : Byte} {n : Nat} (h : busWrite a v s = .ok n t) : SameCpu s t :=
  ((keptByBus_sameCpu s).write a v (.rfl' s)).of_ok h

theorem readSource_cpu {o : Source} {s t : State} {r : Byte × Bool} (h : readSource o s = .ok r t) : SameCpu s t :=
  ((keptByBus_sameCpu s).readSource o (.rfl' s)).of_ok h

/-- A read does not depend on PC, and leaves it. -/
theorem busRead_setPc {a : Addr} {s t : State} {b : Byte} (h : busRead a s = .ok b t) (v : Addr) :
    busRead a (s.setPc v) = .ok b (t.setPc v) := by
  have data : ∀ {b : Byte} {t : State}, dataRead s = .ok b t → dataRead (s.setPc v) = .ok b (t.setPc v) := by
    intro b t h
    unfold dataRead ppuRead at h ⊢
    simp only [] at h ⊢
    by_cases hq : s.ppu.vramAddr.toNat < 0x3F00
    · rw [if_pos hq] at h
      rw [if_pos (show (s.setPc v).ppu.vramAddr.toNat < 0x3F00 from hq),
        show ((s.setPc v).setPpu (s.setPc v).ppu.increment).ppu.mirroring
          = (s.setPpu s.ppu.increment).ppu.mirroring from rfl,
        show (s.setPc v).ppu.vramAddr = s.ppu.vramAddr from rfl]
      split at h <;> cases h <;> rfl
    · rw [if_neg hq] at h
      rw [if_neg (show ¬ (s.setPc v).ppu.vramAddr.toNat < 0x3F00 from hq)]
      cases h; rfl
  have ill : ∀ {b : Byte} {t : State}, illegalRead a s = .ok b t → illegalRead a (s.setPc v) = .ok b (t.setPc v) := by
    intro b t h
    unfold illegalRead at h ⊢
    simp only [State.setPc_config] at h ⊢
    split at h <;> cases h; rfl
  unfold busRead at h ⊢
  split at h
  · cases h; rfl
  · unfold ppuRegRead at h ⊢
    split at h
    · cases h; rfl
    · cases h; rfl
    · exact data h
    · exact ill h
  · cases h; rfl
  · exact ill h
  · unfold latchRead at h ⊢
    by_cases hq : 8 ≤ s.cursor
    · rw [if_pos hq] at h
      rw [if_pos (show 8 ≤ (s.setPc v).cursor from hq)]
      cases h; rfl
    · rw [if_neg hq] at h
      rw [if_neg (show ¬ 8 ≤ (s.setPc v).cursor from hq)]
      cases h
      by_cases hs : s.strobe = true
      · rw [if_pos hs, if_pos (show (s.setPc v).strobe = true from hs)]; rfl
      · rw [if_neg hs, if_neg (show ¬ (s.setPc v).strobe = true from hs)]; rfl
  · cases h; rfl
  · cases h; rfl

/-! ## Bytes after an update of a register -/

@[simp] theorem byteAt_setA (s : State) (v : Byte) (r : Space) (k : Nat) : (s.setA v).byteAt r k = s.byteAt r k := by
  cases r <;> rfl
@[simp] theorem byteAt_setX (s : State) (v : Byte) (r : Space) (k : Nat) : (s.setX v).byteAt r k = s.byteAt r k := by
  cases r <;> rfl
@[simp] theorem byteAt_setY (s : State) (v : Byte) (r : Space) (k : Nat) : (s.setY v).byteAt r k = s.byteAt r k := by
  cases r <;> rfl
@[simp] theorem byteAt_setSp (s : State) (v : Byte) (r : Space) (k : Nat) : (s.setSp v).byteAt r k = s.byteAt r k := by
  cases r <;> rfl
@[simp] theorem byteAt_setP (s : State) (v : Byte) (r : Space) (k : Nat) : (s.setP v).byteAt r k = s.byteAt r k := by
  cases r <;> rfl
@[simp] theorem byteAt_setPc (s : State) (v : Addr) (r : Space) (k : Nat) : (s.setPc v).byteAt r k = s.byteAt r k := by
  cases r <;> rfl
@[simp] theorem byteAt_setRun (s : State) (v : Run) (r : Space) (k : Nat) : (s.setRun v).byteAt r k = s.byteAt r k := by
  cases r <;> rfl
@[simp] theorem byteAt_setZN (s : State) (v : Byte) (r : Space) (k : Nat) : (s.setZN v).byteAt r k = s.byteAt r k := by
  cases r <;> rfl
@[simp] theorem byteAt_setFlag (s : State) (f : Flag) (b : Bool) (r : Space) (k : Nat) :
    (s.setFlag f b).byteAt r k = s.byteAt r k := by
  cases r <;> rfl

/-! ## Reads -/

/-- The state that differs from `s` only in what a read may change (R86). -/
def readChange (s t : State) : State :=
  { s with
    ppu := { s.ppu with
      vblank := t.ppu.vblank, w := t.ppu.w, vramAddr := t.ppu.vramAddr, readBuf := t.ppu.readBuf }
    cursor := t.cursor
    draws := t.draws }

theorem dataRead_changes {s t : State} {v : Byte} (h : dataRead s = .ok v t) : t = readChange s t := by
  unfold dataRead at h
  simp only at h
  split at h
  · obtain ⟨b, u, hb, hv⟩ := Access.bind_eq_ok.1 h
    have hu : u = s.setPpu s.ppu.increment := by
      unfold ppuRead at hb
      split at hb <;> cases hb <;> rfl
    subst hu
    cases hv; rfl
  · cases h; rfl

/-- A read that completes changes nothing but its side effects (R86). -/
theorem busRead_changes {a : Addr} {s t : State} {v : Byte} (h : busRead a s = .ok v t) : t = readChange s t := by
  have ill : ∀ {v : Byte}, illegalRead a s = .ok v t → t = readChange s t := by
    intro v h
    unfold illegalRead at h
    split at h <;> cases h
    rfl
  unfold busRead at h
  split at h
  · cases h; rfl
  · unfold ppuRegRead at h
    split at h
    · cases h; rfl
    · cases h; rfl
    · exact dataRead_changes h
    · exact ill h
  · cases h; rfl
  · exact ill h
  · unfold latchRead at h
    split at h
    · cases h; rfl
    · cases h; split <;> rfl
  · cases h; rfl
  · cases h; rfl

theorem byteAt_readChange (s t : State) (r : Space) (k : Nat) : (readChange s t).byteAt r k = s.byteAt r k := by
  cases r <;> rfl

/-- No read changes a byte of any array. -/
theorem busRead_byteAt {a : Addr} {s t : State} {v : Byte} (h : busRead a s = .ok v t) (r : Space) (k : Nat) :
    t.byteAt r k = s.byteAt r k := by
  rw [busRead_changes h, byteAt_readChange]

theorem readSource_byteAt {o : Source} {s t : State} {q : Byte × Bool} (h : readSource o s = .ok q t) (r : Space)
    (k : Nat) : t.byteAt r k = s.byteAt r k := by
  cases o with
  | imm v => cases h; rfl
  | mem m =>
    obtain ⟨e, he⟩ := resolve_ok m s
    unfold readSource at h
    simp only [he, Access.bind_ok] at h
    obtain ⟨b, u, hb, hu⟩ := Access.bind_eq_ok.1 h
    cases hu
    exact busRead_byteAt hb r k

/-! ## Writes -/

theorem ppuWrite_byteAt {a : Addr} {q : VAddr} {v : Byte} {s t : State} (h : ppuWrite a q v s = .ok () t) (r : Space)
    (k : Nat)
    (hk : (match ppuCell s.ppu.mirroring q with
      | .chr i => !s.ppu.chrRom && (r == .chr && k == i)
      | .vram i => r == .vram && k == i
      | .palette i => r == .palette && k == i
      | .missing => false) = false) : t.byteAt r k = s.byteAt r k := by
  unfold ppuWrite at h
  split at h
  · next i hc =>
    simp only [hc] at hk
    split at h
    · unfold illegalWrite at h; split at h <;> cases h; rfl
    · next hrom =>
      cases h
      simp only [hrom, Bool.not_false, Bool.true_and, Bool.and_eq_false_iff, beq_eq_false_iff_ne] at hk
      cases r <;> first | rfl | exact Memory.read_write_ne _ _ (by simpa using hk)
  · next i hc =>
    cases h
    simp only [hc, Bool.and_eq_false_iff, beq_eq_false_iff_ne] at hk
    cases r <;> first | rfl | exact Memory.read_write_ne _ _ (by simpa using hk)
  · next i hc =>
    cases h
    simp only [hc, Bool.and_eq_false_iff, beq_eq_false_iff_ne] at hk
    cases r <;> first | rfl | exact Memory.read_write_ne _ _ (by simpa using hk)
  · cases h

/-- An OAM DMA copy changes no byte outside OAM, and none in it at an index of 256 or more. -/
theorem oamCopy_byteAt {page : Byte} (n : Nat) (i : Byte) {s t : State} (h : oamCopy page n i s = .ok () t) (r : Space)
    (k : Nat) (hk : ¬(r = .oam ∧ k < 0x100)) : t.byteAt r k = s.byteAt r k := by
  induction n generalizing i s with
  | zero => cases h; rfl
  | succ n ih =>
    obtain ⟨b, u, hb, hu⟩ := Access.bind_eq_ok.1 h
    rw [ih (i + 1) hu]
    refine Eq.trans ?_ (busRead_byteAt hb r k)
    have hlt : u.ppu.oamAddr.toNat < 256 := u.ppu.oamAddr.isLt
    cases r <;> first | rfl | exact Memory.read_write_ne _ _ (by intro hh; exact hk ⟨rfl, by omega⟩)

/-- A write changes no byte of any array but the one it stores to. -/
theorem busWrite_byteAt {a : Addr} {v : Byte} {s t : State} {n : Nat} (h : busWrite a v s = .ok n t) (r : Space)
    (k : Nat) (hk : storesTo a s r k = false) : t.byteAt r k = s.byteAt r k := by
  unfold busWrite at h
  unfold storesTo at hk
  split at h
  · next i hc =>
    simp only [hc, Bool.and_eq_false_iff, beq_eq_false_iff_ne] at hk
    cases h
    cases r <;> first | rfl | exact Memory.read_write_ne _ _ (by simpa using hk)
  · next hc =>
    simp only [hc] at hk
    obtain ⟨_, u, hu, h⟩ := Access.bind_eq_ok.1 h
    cases h
    unfold ppuRegWrite at hu
    split at hu
    · cases hu; cases r <;> rfl
    · cases hu; cases r <;> rfl
    · unfold illegalWrite at hu; split at hu <;> cases hu; rfl
    · cases hu; cases r <;> rfl
    · next h4 =>
      cases hu
      simp only [h4, Bool.and_eq_false_iff, beq_eq_false_iff_ne] at hk
      cases r <;> first | rfl | exact Memory.read_write_ne _ _ (by simpa using hk)
    · cases hu; unfold Ppu.writeScroll; split <;> cases r <;> rfl
    · cases hu; unfold Ppu.writeAddr; split <;> cases r <;> rfl
    · next h0 h1 h2 h3 h4 h5 h6 =>
      have h7 : a.toNat % 8 = 7 := by
        have ne : ∀ m, (a.toNat % 8 = m → False) → a.toNat % 8 ≠ m := fun _ h => h
        have := ne _ h0; have := ne _ h1; have := ne _ h2; have := ne _ h3
        have := ne _ h4; have := ne _ h5; have := ne _ h6
        omega
      simp only [h7] at hk
      obtain ⟨_, w, hw, hu⟩ := Access.bind_eq_ok.1 hu
      cases hu
      refine Eq.trans ?_ (ppuWrite_byteAt hw r k hk)
      cases r <;> rfl
  · cases h; rfl
  · next hc =>
    simp only [hc, Bool.and_eq_false_iff, beq_eq_false_iff_ne, decide_eq_false_iff_not] at hk
    obtain ⟨_, u, hu, h⟩ := Access.bind_eq_ok.1 h
    cases h
    exact oamCopy_byteAt _ _ hu r k (by rintro ⟨h1, h2⟩; exact hk.elim (absurd h1) (absurd h2))
  · cases h; unfold latchWrite; split <;> cases r <;> rfl
  · next i hc =>
    simp only [hc, Bool.and_eq_false_iff, beq_eq_false_iff_ne] at hk
    cases h
    cases r <;> first | rfl | exact Memory.read_write_ne _ _ (by simpa using hk)
  · obtain ⟨_, u, hu, h⟩ := Access.bind_eq_ok.1 h
    cases h
    unfold illegalWrite at hu; split at hu <;> cases hu; rfl

@[simp] theorem byteAt_tick (n : Nat) (s : State) (r : Space) (k : Nat) : (tick n s).byteAt r k = s.byteAt r k := by
  have h := sameData_tick n s
  cases r
  · rfl
  · rfl
  · rfl
  · exact congrArg (fun m => Memory.read m k) h.chr
  · exact congrArg (fun m => Memory.read m k) h.vram
  · exact congrArg (fun m => Memory.read m k) h.palette
  · exact congrArg (fun m => Memory.read m k) h.oam

end Sys2Proof.Machine
end

