-- ==== Sys2Proof/Laws/HostOps.lean ====
section
/-! SUPPORT. Construction and reset: reset said once, and the state after reset as the blank cartridge's. -/

namespace Sys2Proof.Machine

/-- `reset()` said once (R450): the vector read lies in PRG-ROM. -/
theorem hostReset_eq (s : State) :
    hostReset s = ((resetRegisters s).setPc (addr16 (s.prg.read (0x7FFD % prgLength s.prgSize))
      (s.prg.read (0x7FFC % prgLength s.prgSize)))).setRun .running := by
  unfold hostReset
  rw [busRead16_prgRom (by decide) (by decide)]
  rfl

/-- Construction with the blank cartridge succeeds. -/
theorem construct_blank :
    construct blankCartridge blankFill Config.default =
      some { a := 0, x := 0, y := 0, sp := 0, p := 0, pc := 0, run := .needsReset, ram := [], prgRam := [],
             prg := [], prgSize := .kb32, cycles := 0, strobe := false, cursor := 0, buttons := 0x00,
             ppu := Ppu.blank, config := Config.default, draws := 0, frameEvent := false,
             frameComplete := false } := by
  have hlen : blankCartridge.prg.length = 0x8000 := by exact List.length_replicate
  have hprg : Memory.ofBytes 0 blankCartridge.prg = [] := Memory.ofBytes_replicate _ _
  simp only [construct, hlen, hprg]
  rfl

/-- `State.reset` is construction followed by `reset()`. -/
theorem reset_eq_hostReset :
    (construct blankCartridge blankFill Config.default).map hostReset = some State.reset := by
  rw [construct_blank, Option.map_some, hostReset_eq]
  rfl

end Sys2Proof.Machine
end

