-- ==== Sys2Proof/Laws/PerInstr.lean ====
section
/-! SUPPORT. The family CodeRow: the code of each well-formed instruction is the code of the Opcode Table's
entry for its operation and its mode (R146 to R150). -/

namespace Sys2Proof.Laws.CodeRow

/-- A well-formed instruction's code has the table entry of its operation and mode, and a code with no
entry has none. -/
def Statement (i : Instr) : Prop :=
  i.wellFormed = true →
    match i.op with
    | some op => ∃ e, lookup i.code = some e ∧ e.op = op ∧ e.mode = i.mode
    | none => lookup i.code = none

theorem lda (o : Source) : Statement (.lda o) := fun h => lookup_form rfl h rfl
theorem ldx (o : Source) : Statement (.ldx o) := fun h => lookup_form rfl h rfl
theorem ldy (o : Source) : Statement (.ldy o) := fun h => lookup_form rfl h rfl
theorem sta (m : MemOperand) : Statement (.sta m) := fun h => lookup_form rfl h rfl
theorem stx (m : MemOperand) : Statement (.stx m) := fun h => lookup_form rfl h rfl
theorem sty (m : MemOperand) : Statement (.sty m) := fun h => lookup_form rfl h rfl
theorem tax : Statement (.tax) := fun h => lookup_form rfl h rfl
theorem tay : Statement (.tay) := fun h => lookup_form rfl h rfl
theorem txa : Statement (.txa) := fun h => lookup_form rfl h rfl
theorem tya : Statement (.tya) := fun h => lookup_form rfl h rfl
theorem tsx : Statement (.tsx) := fun h => lookup_form rfl h rfl
theorem txs : Statement (.txs) := fun h => lookup_form rfl h rfl
theorem adc (o : Source) : Statement (.adc o) := fun h => lookup_form rfl h rfl
theorem sbc (o : Source) : Statement (.sbc o) := fun h => lookup_form rfl h rfl
theorem and (o : Source) : Statement (.and o) := fun h => lookup_form rfl h rfl
theorem ora (o : Source) : Statement (.ora o) := fun h => lookup_form rfl h rfl
theorem eor (o : Source) : Statement (.eor o) := fun h => lookup_form rfl h rfl
theorem cmp (o : Source) : Statement (.cmp o) := fun h => lookup_form rfl h rfl
theorem cpx (o : Source) : Statement (.cpx o) := fun h => lookup_form rfl h rfl
theorem cpy (o : Source) : Statement (.cpy o) := fun h => lookup_form rfl h rfl
theorem bit (m : MemOperand) : Statement (.bit m) := fun h => lookup_form rfl h rfl
theorem inc (m : MemOperand) : Statement (.inc m) := fun h => lookup_form rfl h rfl
theorem dec (m : MemOperand) : Statement (.dec m) := fun h => lookup_form rfl h rfl
theorem inx : Statement (.inx) := fun h => lookup_form rfl h rfl
theorem iny : Statement (.iny) := fun h => lookup_form rfl h rfl
theorem dex : Statement (.dex) := fun h => lookup_form rfl h rfl
theorem dey : Statement (.dey) := fun h => lookup_form rfl h rfl
theorem asl (o : ShiftOperand) : Statement (.asl o) := fun h => lookup_form rfl h rfl
theorem lsr (o : ShiftOperand) : Statement (.lsr o) := fun h => lookup_form rfl h rfl
theorem rol (o : ShiftOperand) : Statement (.rol o) := fun h => lookup_form rfl h rfl
theorem ror (o : ShiftOperand) : Statement (.ror o) := fun h => lookup_form rfl h rfl
theorem jmp (target : Addr) : Statement (.jmp target) := fun h => lookup_form rfl h rfl
theorem jmpInd (ptr : Addr) : Statement (.jmpInd ptr) := fun h => lookup_form rfl h rfl
theorem jsr (target : Addr) : Statement (.jsr target) := fun h => lookup_form rfl h rfl
theorem rts : Statement (.rts) := fun h => lookup_form rfl h rfl
theorem rti : Statement (.rti) := fun h => lookup_form rfl h rfl
theorem bpl (d : Byte) : Statement (.bpl d) := fun h => lookup_form rfl h rfl
theorem bmi (d : Byte) : Statement (.bmi d) := fun h => lookup_form rfl h rfl
theorem bvc (d : Byte) : Statement (.bvc d) := fun h => lookup_form rfl h rfl
theorem bvs (d : Byte) : Statement (.bvs d) := fun h => lookup_form rfl h rfl
theorem bcc (d : Byte) : Statement (.bcc d) := fun h => lookup_form rfl h rfl
theorem bcs (d : Byte) : Statement (.bcs d) := fun h => lookup_form rfl h rfl
theorem bne (d : Byte) : Statement (.bne d) := fun h => lookup_form rfl h rfl
theorem beq (d : Byte) : Statement (.beq d) := fun h => lookup_form rfl h rfl
theorem brk : Statement (.brk) := fun h => lookup_form rfl h rfl
theorem nop : Statement (.nop) := fun h => lookup_form rfl h rfl
theorem pha : Statement (.pha) := fun h => lookup_form rfl h rfl
theorem pla : Statement (.pla) := fun h => lookup_form rfl h rfl
theorem php : Statement (.php) := fun h => lookup_form rfl h rfl
theorem plp : Statement (.plp) := fun h => lookup_form rfl h rfl
theorem clc : Statement (.clc) := fun h => lookup_form rfl h rfl
theorem sec : Statement (.sec) := fun h => lookup_form rfl h rfl
theorem cli : Statement (.cli) := fun h => lookup_form rfl h rfl
theorem sei : Statement (.sei) := fun h => lookup_form rfl h rfl
theorem cld : Statement (.cld) := fun h => lookup_form rfl h rfl
theorem sed : Statement (.sed) := fun h => lookup_form rfl h rfl
theorem clv : Statement (.clv) := fun h => lookup_form rfl h rfl
theorem lax (m : MemOperand) : Statement (.lax m) := fun h => lookup_form rfl h rfl
theorem sax (m : MemOperand) : Statement (.sax m) := fun h => lookup_form rfl h rfl
theorem slo (m : MemOperand) : Statement (.slo m) := fun h => lookup_form rfl h rfl
theorem rla (m : MemOperand) : Statement (.rla m) := fun h => lookup_form rfl h rfl
theorem sre (m : MemOperand) : Statement (.sre m) := fun h => lookup_form rfl h rfl
theorem rra (m : MemOperand) : Statement (.rra m) := fun h => lookup_form rfl h rfl
theorem dcp (m : MemOperand) : Statement (.dcp m) := fun h => lookup_form rfl h rfl
theorem isb (m : MemOperand) : Statement (.isb m) := fun h => lookup_form rfl h rfl
theorem nopUndoc (code : Byte) (o : NopOperand) : Statement (.nopUndoc code o) := fun h => lookup_nopCode code o (wellFormed_codeExists h)
theorem sbcUndoc (v : Byte) : Statement (.sbcUndoc v) := fun h => lookup_form rfl h rfl
theorem undefined (code : Byte) : Statement (.undefined code) := fun h => lookup_absent code (wellFormed_codeExists h)

end Sys2Proof.Laws.CodeRow
end

