-- ==== Sys2Proof/Laws/SpriteEval.lean ====
section
/-! SUPPORT. A decision tree of `SpriteEval` is as general as a function of the PPU (log 9): every function of a
PPU whose arrays are canonical and whose counters are bounded is some tree's. -/

namespace Sys2Proof.Machine

/-- The PPUs that a tick can reach: canonical arrays (R55 to R58), SCANLINE in range, and DOT below a bound, since it
is over 340 while R414's loop runs. -/
structure Ppu.Bounded (m : Nat) (p : Ppu) : Prop where
  chr      : p.chr.wf 0x2000
  vram     : p.vram.wf 0x800
  palette  : p.palette.wf 0x20
  oam      : p.oam.wf 0x100
  scanline : p.scanline < 262
  dot      : p.dot < 2 ^ m

/-- A canonical array reads as blank beyond its size. -/
theorem Memory.read_of_size_le {size i : Nat} {m : Memory} (h : m.wf size) (hi : size ≤ i) : m.read i = blank :=
  read_eq_blank fun c hc => by have := (h.2 c hc).1; omega

/-- Two such PPUs with the same fields are the same. -/
theorem Ppu.eq_of_field_eq {m : Nat} {p q : Ppu} (hp : p.Bounded m) (hq : q.Bounded m)
    (h : ∀ f, p.field f = q.field f) : p = q := by
  have num : ∀ {w : Nat} {a b : BitVec w}, a.toNat = b.toNat → a = b := fun h => BitVec.eq_of_toNat_eq h
  have flag : ∀ {a b : Bool}, a.toNat = b.toNat → a = b := by decide
  have mir : p.mirroring = q.mirroring := by
    have := h .mirroring
    simp only [Ppu.field] at this
    split at this <;> split at this <;> simp_all
  have h1 := num (h .ctrl)
  have h2 := num (h .mask)
  have h3 := flag (h .vblank)
  have h4 := flag (h .sprite0Hit)
  have h5 := flag (h .overflow)
  have h6 := num (h .oamAddr)
  have h7 := num (h .vramAddr)
  have h8 := flag (h .w)
  have h9 := num (h .scrollX)
  have h10 := num (h .scrollY)
  have h11 := num (h .readBuf)
  have h12 := h .scanline
  have h13 := h .dot
  have h14 := flag (h .nmiPending)
  have h15 := flag (h .chrRom)
  have h16 := Memory.eq_of_read_eq hp.chr hq.chr fun i => num (h (.chr i))
  have h17 := Memory.eq_of_read_eq hp.vram hq.vram fun i => num (h (.vram i))
  have h18 := Memory.eq_of_read_eq hp.palette hq.palette fun i => num (h (.palette i))
  have h19 := Memory.eq_of_read_eq hp.oam hq.oam fun i => num (h (.oam i))
  cases p; cases q
  simp only [Ppu.field] at *
  simp_all

/-- A field is below 2^N for N at least 14 and the bound of DOT. -/
theorem Ppu.field_lt {m : Nat} {p : Ppu} (hp : p.Bounded m) (f : PpuField) : p.field f < 2 ^ (max 14 m) := by
  have big : ∀ {n k : Nat}, n < 2 ^ k → k ≤ 14 → n < 2 ^ (max 14 m) := fun h hk =>
    Nat.lt_of_lt_of_le h (Nat.pow_le_pow_right (by decide) (by omega))
  have flag : ∀ b : Bool, b.toNat < 2 ^ 1 := by decide
  cases f with
  | scanline => exact big (k := 9) (Nat.lt_trans hp.scanline (by decide)) (by decide)
  | dot => exact Nat.lt_of_lt_of_le hp.dot (Nat.pow_le_pow_right (by decide) (by omega))
  | mirroring =>
    refine big (k := 2) ?_ (by decide)
    simp only [Ppu.field]; split <;> decide
  | vramAddr => exact big (BitVec.isLt _) (by decide)
  | vblank => exact big (flag _) (by decide)
  | sprite0Hit => exact big (flag _) (by decide)
  | overflow => exact big (flag _) (by decide)
  | w => exact big (flag _) (by decide)
  | nmiPending => exact big (flag _) (by decide)
  | chrRom => exact big (flag _) (by decide)
  | _ => exact big (BitVec.isLt _) (by decide)

/-- The fields of a PPU, the bytes of its arrays among them. -/
def ppuFields : List PpuField :=
  [.ctrl, .mask, .vblank, .sprite0Hit, .overflow, .oamAddr, .vramAddr, .w, .scrollX, .scrollY, .readBuf, .scanline,
    .dot, .nmiPending, .mirroring, .chrRom] ++
  (List.range 0x2000).map .chr ++ (List.range 0x800).map .vram ++ (List.range 0x20).map .palette ++
  (List.range 0x100).map .oam

/-- Every bit of every field. -/
def ppuBits (m : Nat) : List PpuTest :=
  ppuFields.flatMap fun f => (List.range (max 14 m)).map (.bit f)

/-- The bits tell two PPUs apart. -/
theorem Ppu.eq_of_bits_eq {m : Nat} {p q : Ppu} (hp : p.Bounded m) (hq : q.Bounded m)
    (h : (ppuBits m).map p.holds = (ppuBits m).map q.holds) : p = q := by
  have listed : ∀ f ∈ ppuFields, p.field f = q.field f := by
    intro f hf
    refine Nat.eq_of_testBit_eq fun k => ?_
    by_cases hk : k < max 14 m
    · exact List.map_inj_left.1 h (.bit f k)
        (List.mem_flatMap.2 ⟨f, hf, List.mem_map.2 ⟨k, List.mem_range.2 hk, rfl⟩⟩)
    · have up : 2 ^ max 14 m ≤ 2 ^ k := Nat.pow_le_pow_right (by decide) (by omega)
      rw [Nat.testBit_lt_two_pow (Nat.lt_of_lt_of_le (field_lt hp f) up),
        Nat.testBit_lt_two_pow (Nat.lt_of_lt_of_le (field_lt hq f) up)]
  have array : ∀ {size : Nat} {c : Nat → PpuField} {a b : Memory}, a.wf size → b.wf size →
      (∀ i, p.field (c i) = (a.read i).toNat) → (∀ i, q.field (c i) = (b.read i).toNat) →
      (∀ i, i < size → c i ∈ ppuFields) → ∀ i, p.field (c i) = q.field (c i) := by
    intro size c a b ha hb ea eb hc i
    by_cases hi : i < size
    · exact listed _ (hc i hi)
    · rw [ea, eb, Memory.read_of_size_le ha (by omega), Memory.read_of_size_le hb (by omega)]
  refine eq_of_field_eq hp hq fun f => ?_
  cases f with
  | chr i => exact array hp.chr hq.chr (fun _ => rfl) (fun _ => rfl) (fun i hi => by simp [ppuFields, hi]) i
  | vram i => exact array hp.vram hq.vram (fun _ => rfl) (fun _ => rfl) (fun i hi => by simp [ppuFields, hi]) i
  | palette i => exact array hp.palette hq.palette (fun _ => rfl) (fun _ => rfl) (fun i hi => by simp [ppuFields, hi]) i
  | oam i => exact array hp.oam hq.oam (fun _ => rfl) (fun _ => rfl) (fun i hi => by simp [ppuFields, hi]) i
  | _ => exact listed _ (by simp [ppuFields])

/-- Every function of the results of some tests is a tree's. -/
theorem exists_tree (tests : List PpuTest) (g : List Bool → SpriteAction) :
    ∃ rule : SpriteEval, ∀ p : Ppu, p.spriteAction rule = g (tests.map p.holds) := by
  induction tests generalizing g with
  | nil => exact ⟨.act (g []), fun _ => rfl⟩
  | cons t tests ih =>
    obtain ⟨yes, hy⟩ := ih fun l => g (true :: l)
    obtain ⟨no, hn⟩ := ih fun l => g (false :: l)
    refine ⟨.test t yes no, fun p => ?_⟩
    rw [Ppu.spriteAction, List.map_cons]
    cases h : p.holds t
    · simpa using hn p
    · simpa using hy p

/-- Every function of a PPU, as R13's argument may be, is a tree's. -/
theorem every_spriteEval (f : Ppu → SpriteAction) (m : Nat) :
    ∃ rule : SpriteEval, ∀ p : Ppu, p.Bounded m → p.spriteAction rule = f p := by
  classical
  obtain ⟨rule, hr⟩ := exists_tree (ppuBits m) fun bits =>
    if h : ∃ p : Ppu, p.Bounded m ∧ (ppuBits m).map p.holds = bits then f h.choose else ⟨false, none⟩
  refine ⟨rule, fun p hp => ?_⟩
  have h : ∃ q : Ppu, q.Bounded m ∧ (ppuBits m).map q.holds = (ppuBits m).map p.holds := ⟨p, hp, rfl⟩
  rw [hr, dif_pos h, Ppu.eq_of_bits_eq h.choose_spec.1 hp h.choose_spec.2]

end Sys2Proof.Machine
end

