-- ==== Sys2Proof/Tests/Slice0.lean ====
section
/-! SUPPORT. The model's own tests: well-formedness, decoding of words written out from the spec's encodings, one
step of each instruction with the spec's own example values, and for each statement a case that meets its
hypotheses. -/

namespace Sys2Proof.Tests
open Sys2Proof Sys2Proof.Machine

/-! ## Well-formedness: each check refuses an ill-formed term -/

/-- `formExists`: LDX has no zp,X form, STX no abs,X form, BIT no indexed form, the shifts no pointer form,
LAX no zp,X form and the undocumented NOPs no zp,Y form (R148, R149). -/
theorem test_formExists_refuses :
    (Instr.ldx (.mem (.zpX 0x10))).wellFormed = false ∧ (Instr.stx (.absX 0x0200)).wellFormed = false ∧
    (Instr.bit (.absX 0x0200)).wellFormed = false ∧ (Instr.asl (.mem (.indX 0x10))).wellFormed = false ∧
    (Instr.lax (.zpX 0x10)).wellFormed = false ∧
    (Instr.nopUndoc 0x04 (.read (.mem (.zpY 0x10)))).wellFormed = false := by
  decide

/-- `codeExists`: 0xEA is the documented NOP, 0x04 is not an implied NOP (R360), and 0xA9 has an entry (R150). -/
theorem test_codeExists_refuses :
    (Instr.nopUndoc 0xEA .implied).wellFormed = false ∧ (Instr.nopUndoc 0x04 .implied).wellFormed = false ∧
    (Instr.undefined 0xA9).wellFormed = false := by
  decide

/-- And well-formed terms pass. -/
theorem test_wellFormed_accepts :
    (Instr.ldx (.mem (.zpY 0x10))).wellFormed = true ∧
    (Instr.nopUndoc 0xFC (.read (.mem (.absX 0x0200)))).wellFormed = true ∧
    (Instr.undefined 0xFF).wellFormed = false ∧ (Instr.undefined 0x02).wellFormed = true := by
  decide

/-! ## Decoding: every constructor by a word written out from R144 to R147 -/

/-- Loads and stores (R210 to R215). -/
theorem test_decode_loads :
    [[0xA9, 0x05], [0xBE, 0x34, 0x12], [0xB4, 0x10], [0x91, 0x40], [0x96, 0xF0], [0x8C, 0x00, 0x20], [0xA1, 0xFE]].map decode =
    [.ok (.lda (.imm 0x05), []),
     .ok (.ldx (.mem (.absY 0x1234)), []),
     .ok (.ldy (.mem (.zpX 0x10)), []),
     .ok (.sta (.indY 0x40), []),
     .ok (.stx (.zpY 0xF0), []),
     .ok (.sty (.abs 0x2000), []),
     .ok (.lda (.mem (.indX 0xFE)), [])] := by
  decide

/-- Transfers and register counters (R216 to R221, R251 to R254). -/
theorem test_decode_transfers :
    [[0xAA], [0xA8], [0x8A], [0x98], [0xBA], [0x9A], [0xE8],
     [0xC8], [0xCA], [0x88]].map decode =
    [.ok (.tax, []),
     .ok (.tay, []),
     .ok (.txa, []),
     .ok (.tya, []),
     .ok (.tsx, []),
     .ok (.txs, []),
     .ok (.inx, []),
     .ok (.iny, []),
     .ok (.dex, []),
     .ok (.dey, [])] := by
  decide

/-- Arithmetic, logic and compares (R240 to R248). -/
theorem test_decode_alu :
    [[0x71, 0x40], [0xE9, 0xB0], [0x3D, 0xFF, 0x02], [0x05, 0x10], [0x59, 0x00, 0x03], [0xC9, 0x20], [0xE4, 0x10],
     [0xCC, 0x00, 0x02], [0x2C, 0x02, 0x20]].map decode =
    [.ok (.adc (.mem (.indY 0x40)), []),
     .ok (.sbc (.imm 0xB0), []),
     .ok (.and (.mem (.absX 0x02FF)), []),
     .ok (.ora (.mem (.zp 0x10)), []),
     .ok (.eor (.mem (.absY 0x0300)), []),
     .ok (.cmp (.imm 0x20), []),
     .ok (.cpx (.mem (.zp 0x10)), []),
     .ok (.cpy (.mem (.abs 0x0200)), []),
     .ok (.bit (.abs 0x2002), [])] := by
  decide

/-- INC, DEC and the shifts (R249, R250, R255 to R258). -/
theorem test_decode_memory_modify :
    [[0xFE, 0x00, 0x02], [0xC6, 0x10], [0x0A], [0x46, 0x10], [0x3E, 0xFF, 0x07], [0x76, 0x10]].map decode =
    [.ok (.inc (.absX 0x0200), []),
     .ok (.dec (.zp 0x10), []),
     .ok (.asl .acc, []),
     .ok (.lsr (.mem (.zp 0x10)), []),
     .ok (.rol (.mem (.absX 0x07FF)), []),
     .ok (.ror (.mem (.zpX 0x10)), [])] := by
  decide

/-- Jumps, branches, BRK and NOP (R290 to R306). -/
theorem test_decode_control :
    [[0x4C, 0x34, 0x12], [0x6C, 0xFF, 0x02], [0x20, 0x00, 0x90], [0x60], [0x40], [0x10, 0x05], [0x30, 0x05],
     [0x50, 0x80], [0x70, 0x00], [0x90, 0x10], [0xB0, 0x01], [0xD0, 0xFE], [0xF0, 0xFC], [0x00],
     [0xEA]].map decode =
    [.ok (.jmp 0x1234, []),
     .ok (.jmpInd 0x02FF, []),
     .ok (.jsr 0x9000, []),
     .ok (.rts, []),
     .ok (.rti, []),
     .ok (.bpl 0x05, []),
     .ok (.bmi 0x05, []),
     .ok (.bvc 0x80, []),
     .ok (.bvs 0x00, []),
     .ok (.bcc 0x10, []),
     .ok (.bcs 0x01, []),
     .ok (.bne 0xFE, []),
     .ok (.beq 0xFC, []),
     .ok (.brk, []),
     .ok (.nop, [])] := by
  decide

/-- Stack and flags (R320 to R336). -/
theorem test_decode_stack :
    [[0x48], [0x68], [0x08], [0x28], [0x18], [0x38], [0x58],
     [0x78], [0xD8], [0xF8], [0xB8]].map decode =
    [.ok (.pha, []),
     .ok (.pla, []),
     .ok (.php, []),
     .ok (.plp, []),
     .ok (.clc, []),
     .ok (.sec, []),
     .ok (.cli, []),
     .ok (.sei, []),
     .ok (.cld, []),
     .ok (.sed, []),
     .ok (.clv, [])] := by
  decide

/-- The undocumented codes and the absent ones (R149, R150, R350 to R361). -/
theorem test_decode_undocumented :
    [[0xB3, 0x40], [0x97, 0x10], [0x1B, 0x00, 0x02], [0x23, 0x10], [0x57, 0x10], [0x6F, 0x00, 0x02], [0xC7, 0x10],
     [0xFF, 0x00, 0x02], [0x1C, 0x00, 0x02], [0x1A], [0xEB, 0x03], [0x02], [0xBB]].map decode =
    [.ok (.lax (.indY 0x40), []),
     .ok (.sax (.zpY 0x10), []),
     .ok (.slo (.absY 0x0200), []),
     .ok (.rla (.indX 0x10), []),
     .ok (.sre (.zpX 0x10), []),
     .ok (.rra (.abs 0x0200), []),
     .ok (.dcp (.zp 0x10), []),
     .ok (.isb (.absX 0x0200), []),
     .ok (.nopUndoc 0x1C (.read (.mem (.absX 0x0200))), []),
     .ok (.nopUndoc 0x1A .implied, []),
     .ok (.sbcUndoc 0x03, []),
     .ok (.undefined 0x02, []),
     .ok (.undefined 0xBB, [])] := by
  decide

/-- The bits of a table word are the bytes in order, the first in the low bits, and operand bytes that the table
gives no bits are zeros. -/
theorem test_decodeTableWord :
    decodeTableWord 8 0xEA = some .nop ∧ decodeTableWord 24 0x1234AD = some (.lda (.mem (.abs 0x1234))) ∧
    decodeTableWord 8 0xA9 = some (.lda (.imm 0x00)) ∧ decodeTableWord 8 0x02 = some (.undefined 0x02) := by
  decide

/-! ## One step of each instruction, with the values of the rules' own examples -/

/-- The machine after reset with a program in PRG-ROM at `a` and PC there. -/
def prog (a : Addr) (l : List Byte) : State :=
  { State.reset with pc := a, prg := Memory.ofBytes (a.toNat - 0x8000) l }

/-- `s` with one byte of RAM set. -/
def withRam (k : Nat) (v : Byte) (s : State) : State := { s with ram := s.ram.write k v }

/-- What one step leaves, seen through `f`; none if it stops. -/
def after {α : Type} (s : State) (f : State → α) : Option α := (nextState (step s)).map f

/-- The kind and info of the fault of one step, and the state it leaves seen through `f`. -/
def faultAfter {α : Type} (s : State) (f : State → α) : Option (FaultInfo × α) :=
  (faultOf (step s)).map fun e => (e.info, f e.left)

/-- R210. -/
theorem test_lda :
    after (prog 0x8000 [0xA9, 0x80]) (fun t => (t.a, t.p, t.pc, t.cycles)) = some (0x80, 0xA4, 0x8002, 2) := by
  decide

/-- R186 and R192: the sum crosses a page, so a cycle more. -/
theorem test_lda_crossing :
    after (withRam 0x300 0x67 { prog 0x8000 [0xBD, 0xFF, 0x02] with x := 0x01 })
      (fun t => (t.a, t.p, t.pc, t.cycles)) = some (0x67, 0x24, 0x8003, 5) := by
  decide

/-- R211. -/
theorem test_ldx :
    after { prog 0x8000 [0xA2, 0x00] with x := 0x55 } (fun t => (t.x, t.p, t.cycles)) = some (0x00, 0x26, 2) := by
  decide

/-- R212. -/
theorem test_ldy :
    after (prog 0x8000 [0xA0, 0x7F]) (fun t => (t.y, t.p, t.cycles)) = some (0x7F, 0x24, 2) := by
  decide

/-- R213. -/
theorem test_sta :
    after { prog 0x8000 [0x8D, 0x00, 0x02] with a := 0x42 }
      (fun t => (t.ram.read 0x200, t.p, t.pc, t.cycles)) = some (0x42, 0x24, 0x8003, 4) := by
  decide

/-- R192: a crossing costs a store nothing more. -/
theorem test_sta_no_penalty :
    after { prog 0x8000 [0x9D, 0xFF, 0x02] with a := 0x5E, x := 0x01 }
      (fun t => (t.ram.read 0x300, t.cycles)) = some (0x5E, 5) := by
  decide

/-- R214. -/
theorem test_stx :
    after { prog 0x8000 [0x86, 0x10] with x := 0x01 }
      (fun t => (t.ram.read 0x10, t.p, t.cycles)) = some (0x01, 0x24, 3) := by
  decide

/-- R215: the zero-page sum wraps (R182). -/
theorem test_sty :
    after { prog 0x8000 [0x94, 0xFF] with y := 0xFF, x := 0x01 }
      (fun t => (t.ram.read 0x00, t.cycles)) = some (0xFF, 4) := by
  decide

/-- R216. -/
theorem test_tax :
    after { prog 0x8000 [0xAA] with a := 0x05 }
      (fun t => (t.x, t.p, t.pc, t.cycles)) = some (0x05, 0x24, 0x8001, 2) := by
  decide

/-- R217. -/
theorem test_tay :
    after { prog 0x8000 [0xA8] with a := 0x90 } (fun t => (t.y, t.p)) = some (0x90, 0xA4) := by
  decide

/-- R218. -/
theorem test_txa :
    after { prog 0x8000 [0x8A] with a := 0x12 } (fun t => (t.a, t.p)) = some (0x00, 0x26) := by
  decide

/-- R219. -/
theorem test_tya :
    after { prog 0x8000 [0x98] with y := 0x81 } (fun t => (t.a, t.p)) = some (0x81, 0xA4) := by
  decide

/-- R220. -/
theorem test_tsx :
    after (prog 0x8000 [0xBA]) (fun t => (t.x, t.p)) = some (0xFD, 0xA4) := by
  decide

/-- R221: P is left. -/
theorem test_txs :
    after { prog 0x8000 [0x9A] with x := 0xFF } (fun t => (t.sp, t.p)) = some (0xFF, 0x24) := by
  decide

/-- R240. -/
theorem test_adc :
    after { prog 0x8000 [0x69, 0x50] with a := 0x50 }
      (fun t => (t.a, t.p, t.pc, t.cycles)) = some (0xA0, 0xE4, 0x8002, 2) := by
  decide

/-- R240: 0x80 + 0x80 gives 0x00 with C, V and Z; D is ignored. -/
theorem test_adc_wrap :
    after { prog 0x8000 [0x69, 0x80] with a := 0x80, p := 0x2C } (fun t => (t.a, t.p)) = some (0x00, 0x6F) := by
  decide

/-- R241. -/
theorem test_sbc :
    after { prog 0x8000 [0xE9, 0xB0] with a := 0x50, p := 0x25 } (fun t => (t.a, t.p)) = some (0xA0, 0xE4) := by
  decide

/-- R241: with C = 0 an extra 1 is subtracted. -/
theorem test_sbc_borrow :
    after { prog 0x8000 [0xE9, 0x00] with a := 0x00 } (fun t => (t.a, t.p)) = some (0xFF, 0xA4) := by
  decide

/-- R242. -/
theorem test_and :
    after { prog 0x8000 [0x29, 0x3C] with a := 0xF0 } (fun t => (t.a, t.p)) = some (0x30, 0x24) := by
  decide

/-- R243. -/
theorem test_ora :
    after { prog 0x8000 [0x09, 0x80] with a := 0x01 } (fun t => (t.a, t.p)) = some (0x81, 0xA4) := by
  decide

/-- R244. -/
theorem test_eor :
    after { prog 0x8000 [0x49, 0xFF] with a := 0xFF } (fun t => (t.a, t.p)) = some (0x00, 0x26) := by
  decide

/-- R245: V is left. -/
theorem test_cmp :
    after { prog 0x8000 [0xC9, 0x20] with a := 0x10, p := 0x65 } (fun t => (t.a, t.p)) = some (0x10, 0xE4) := by
  decide

/-- R246. -/
theorem test_cpx :
    after { prog 0x8000 [0xE0, 0x05] with x := 0x05 } (fun t => (t.x, t.p)) = some (0x05, 0x27) := by
  decide

/-- R247. -/
theorem test_cpy :
    after { prog 0x8000 [0xC0, 0x00] with y := 0xFF } (fun t => (t.y, t.p)) = some (0xFF, 0xA5) := by
  decide

/-- R248. -/
theorem test_bit :
    after (withRam 0x10 0xC0 { prog 0x8000 [0x24, 0x10] with a := 0x01 })
      (fun t => (t.a, t.p, t.cycles)) = some (0x01, 0xE6, 3) := by
  decide

/-- R248 and R403: the status read clears VBLANK and W after the flags are taken from it. -/
theorem test_bit_status :
    after { prog 0x8000 [0x2C, 0x02, 0x20] with ppu := { Ppu.blank with vblank := true, w := true } }
      (fun t => (t.p, t.ppu.vblank, t.ppu.w)) = some (0xA6, false, false) := by
  decide

/-- R249. -/
theorem test_inc :
    after (withRam 0x10 0x7F (prog 0x8000 [0xE6, 0x10]))
      (fun t => (t.ram.read 0x10, t.p, t.cycles)) = some (0x80, 0xA4, 5) := by
  decide

/-- R249: INC of 0x2007 writes to the advanced address and advances it again. -/
theorem test_inc_data_port :
    after { prog 0x8000 [0xEE, 0x07, 0x20] with ppu := { Ppu.blank with vramAddr := 0x2000, readBuf := 0x41 } }
      (fun t => (t.ppu.vram.read 1, t.ppu.vramAddr, t.ppu.vram.read 0)) = some (0x42, 0x2002, 0x00) := by
  decide

/-- R250. -/
theorem test_dec :
    after (withRam 0x10 0x01 (prog 0x8000 [0xC6, 0x10]))
      (fun t => (t.ram.read 0x10, t.p)) = some (0x00, 0x26) := by
  decide

/-- R251. -/
theorem test_inx :
    after { prog 0x8000 [0xE8] with x := 0x05 } (fun t => (t.x, t.p)) = some (0x06, 0x24) := by
  decide

/-- R252. -/
theorem test_iny :
    after { prog 0x8000 [0xC8] with y := 0xFF } (fun t => (t.y, t.p)) = some (0x00, 0x26) := by
  decide

/-- R253. -/
theorem test_dex :
    after { prog 0x8000 [0xCA] with x := 0x01 } (fun t => (t.x, t.p)) = some (0x00, 0x26) := by
  decide

/-- R254. -/
theorem test_dey :
    after (prog 0x8000 [0x88]) (fun t => (t.y, t.p)) = some (0xFF, 0xA4) := by
  decide

/-- R255. -/
theorem test_asl :
    after { prog 0x8000 [0x0A] with a := 0x81 } (fun t => (t.a, t.p, t.cycles)) = some (0x02, 0x25, 2) := by
  decide

/-- R255: 0x80 gives 0x00 with C and Z; A is left. -/
theorem test_asl_memory :
    after (withRam 0x10 0x80 { prog 0x8000 [0x06, 0x10] with a := 0x81 })
      (fun t => (t.ram.read 0x10, t.a, t.p, t.cycles)) = some (0x00, 0x81, 0x27, 5) := by
  decide

/-- R256. -/
theorem test_lsr :
    after { prog 0x8000 [0x4A] with a := 0x03 } (fun t => (t.a, t.p)) = some (0x01, 0x25) := by
  decide

/-- R257. -/
theorem test_rol :
    after { prog 0x8000 [0x2A] with a := 0x40, p := 0x25 } (fun t => (t.a, t.p)) = some (0x81, 0xA4) := by
  decide

/-- R258. -/
theorem test_ror :
    after { prog 0x8000 [0x6A] with a := 0x02, p := 0x25 } (fun t => (t.a, t.p)) = some (0x81, 0xA4) := by
  decide

/-- R290. -/
theorem test_jmp :
    after (prog 0x8000 [0x4C, 0x34, 0x12]) (fun t => (t.pc, t.cycles)) = some (0x1234, 3) := by
  decide

/-- R291: the high byte comes from the start of the same page. -/
theorem test_jmpInd :
    after (withRam 0x300 0x40 (withRam 0x200 0x90 (prog 0x8000 [0x6C, 0xFF, 0x02])))
      (fun t => (t.pc, t.cycles)) = some (0x9000, 5) := by
  decide

/-- R292. -/
theorem test_jsr :
    after (prog 0x8000 [0x20, 0x00, 0x90])
      (fun t => (t.ram.read 0x1FD, t.ram.read 0x1FC, t.sp, t.pc, t.cycles)) =
      some (0x80, 0x02, 0xFB, 0x9000, 6) := by
  decide

/-- R292: SP wraps within page 1. -/
theorem test_jsr_wrap :
    after { prog 0x8000 [0x20, 0x00, 0x90] with sp := 0x00 }
      (fun t => (t.ram.read 0x100, t.ram.read 0x1FF, t.sp)) = some (0x80, 0x02, 0xFE) := by
  decide

/-- R293. -/
theorem test_rts :
    after (withRam 0x1FD 0x80 (withRam 0x1FC 0x02 { prog 0x9000 [0x60] with sp := 0xFB }))
      (fun t => (t.pc, t.sp, t.cycles)) = some (0x8003, 0xFD, 6) := by
  decide

/-- R294: the pulled 0x10 gives B = 0 and U = 1. -/
theorem test_rti :
    after (withRam 0x1FD 0x80 (withRam 0x1FC 0x05 (withRam 0x1FB 0x10 { prog 0x8000 [0x40] with sp := 0xFA })))
      (fun t => (t.pc, t.p, t.sp, t.cycles)) = some (0x8005, 0x20, 0xFD, 6) := by
  decide

/-- R297. -/
theorem test_bpl :
    after (prog 0x8000 [0x10, 0x05]) (fun t => (t.pc, t.cycles)) = some (0x8007, 3) := by
  decide

/-- R298. -/
theorem test_bmi :
    after (prog 0x8000 [0x30, 0x05]) (fun t => (t.pc, t.cycles)) = some (0x8002, 2) := by
  decide

/-- R299: another page. -/
theorem test_bvc :
    after (prog 0x8100 [0x50, 0x80]) (fun t => (t.pc, t.cycles)) = some (0x8082, 4) := by
  decide

/-- R300. -/
theorem test_bvs :
    after { prog 0x8000 [0x70, 0x00] with p := 0x64 } (fun t => (t.pc, t.cycles)) = some (0x8002, 3) := by
  decide

/-- R301. -/
theorem test_bcc :
    after { prog 0x8000 [0x90, 0x10] with p := 0x25 } (fun t => (t.pc, t.cycles)) = some (0x8002, 2) := by
  decide

/-- R302: the page compared is that of the instruction after the branch. -/
theorem test_bcs :
    after { prog 0x80FD [0xB0, 0x01] with p := 0x25 } (fun t => (t.pc, t.cycles)) = some (0x8100, 4) := by
  decide

/-- R296. -/
theorem test_bne :
    after (prog 0x8000 [0xD0, 0xFE]) (fun t => (t.pc, t.cycles)) = some (0x8000, 3) := by
  decide

/-- R304. -/
theorem test_beq :
    after { prog 0x8010 [0xF0, 0xFC] with p := 0x26 } (fun t => (t.pc, t.cycles)) = some (0x800E, 3) := by
  decide

/-- R305: no push, no flag, 7 cycles. -/
theorem test_brk :
    after (prog 0x8004 [0x00])
      (fun t => (t.run, t.pc, t.cycles, t.sp, t.p)) = some (.halted, 0x8005, 7, 0xFD, 0x24) := by
  decide

/-- R306. -/
theorem test_nop :
    after (prog 0x8000 [0xEA]) (fun t => (t.pc, t.cycles, t.p)) = some (0x8001, 2, 0x24) := by
  decide

/-- R320. -/
theorem test_pha :
    after { prog 0x8000 [0x48] with a := 0x42 }
      (fun t => (t.ram.read 0x1FD, t.sp, t.cycles)) = some (0x42, 0xFC, 3) := by
  decide

/-- R321: SP wraps from 0xFF to 0x00. -/
theorem test_pla :
    after (withRam 0x100 0x42 { prog 0x8000 [0x68] with sp := 0xFF })
      (fun t => (t.a, t.sp, t.p, t.cycles)) = some (0x42, 0x00, 0x24, 4) := by
  decide

/-- R322. -/
theorem test_php :
    after (prog 0x8000 [0x08])
      (fun t => (t.ram.read 0x1FD, t.sp, t.p, t.cycles)) = some (0x34, 0xFC, 0x24, 3) := by
  decide

/-- R323: a pulled 0xFF gives 0xEF. -/
theorem test_plp :
    after (withRam 0x1FD 0xFF { prog 0x8000 [0x28] with sp := 0xFC })
      (fun t => (t.p, t.sp, t.cycles)) = some (0xEF, 0xFD, 4) := by
  decide

/-- R330. -/
theorem test_clc :
    after { prog 0x8000 [0x18] with p := 0x25 } (fun t => (t.p, t.cycles)) = some (0x24, 2) := by
  decide

/-- R331. -/
theorem test_sec :
    after { prog 0x8000 [0x38] with p := 0x24 } (fun t => (t.p, t.cycles)) = some (0x25, 2) := by
  decide

/-- R332. -/
theorem test_cli :
    after { prog 0x8000 [0x58] with p := 0x24 } (fun t => (t.p, t.cycles)) = some (0x20, 2) := by
  decide

/-- R333. -/
theorem test_sei :
    after { prog 0x8000 [0x78] with p := 0x20 } (fun t => (t.p, t.cycles)) = some (0x24, 2) := by
  decide

/-- R334. -/
theorem test_cld :
    after { prog 0x8000 [0xD8] with p := 0x2C } (fun t => (t.p, t.cycles)) = some (0x24, 2) := by
  decide

/-- R335. -/
theorem test_sed :
    after { prog 0x8000 [0xF8] with p := 0x24 } (fun t => (t.p, t.cycles)) = some (0x2C, 2) := by
  decide

/-- R336. -/
theorem test_clv :
    after { prog 0x8000 [0xB8] with p := 0x64 } (fun t => (t.p, t.cycles)) = some (0x24, 2) := by
  decide

/-- R351. -/
theorem test_lax :
    after (withRam 0x10 0x80 (prog 0x8000 [0xA7, 0x10]))
      (fun t => (t.a, t.x, t.p, t.cycles)) = some (0x80, 0x80, 0xA4, 3) := by
  decide

/-- R352. -/
theorem test_sax :
    after { prog 0x8000 [0x87, 0x10] with a := 0xF0, x := 0x3C }
      (fun t => (t.ram.read 0x10, t.p, t.cycles)) = some (0x30, 0x24, 3) := by
  decide

/-- R353. -/
theorem test_slo :
    after (withRam 0x10 0x81 { prog 0x8000 [0x07, 0x10] with a := 0x01 })
      (fun t => (t.ram.read 0x10, t.a, t.p, t.cycles)) = some (0x02, 0x03, 0x25, 5) := by
  decide

/-- R354. -/
theorem test_rla :
    after (withRam 0x10 0x80 { prog 0x8000 [0x27, 0x10] with a := 0xFF, p := 0x25 })
      (fun t => (t.ram.read 0x10, t.a, t.p)) = some (0x01, 0x01, 0x25) := by
  decide

/-- R355. -/
theorem test_sre :
    after (withRam 0x10 0x03 { prog 0x8000 [0x47, 0x10] with a := 0x80 })
      (fun t => (t.ram.read 0x10, t.a, t.p)) = some (0x01, 0x81, 0xA5) := by
  decide

/-- R356. -/
theorem test_rra :
    after (withRam 0x10 0x03 { prog 0x8000 [0x67, 0x10] with a := 0x10 })
      (fun t => (t.ram.read 0x10, t.a, t.p)) = some (0x01, 0x12, 0x24) := by
  decide

/-- R357. -/
theorem test_dcp :
    after (withRam 0x10 0x06 { prog 0x8000 [0xC7, 0x10] with a := 0x05 })
      (fun t => (t.ram.read 0x10, t.a, t.p)) = some (0x05, 0x05, 0x27) := by
  decide

/-- R358. -/
theorem test_isb :
    after (withRam 0x10 0x04 { prog 0x8000 [0xE7, 0x10] with a := 0x10, p := 0x25 })
      (fun t => (t.ram.read 0x10, t.a, t.p)) = some (0x05, 0x0B, 0x25) := by
  decide

/-- R360: only PC and the cycles. -/
theorem test_nopUndoc :
    after (prog 0x8000 [0x04, 0x10]) (fun t => (t.pc, t.cycles, t.p)) = some (0x8002, 3, 0x24) := by
  decide

/-- R360: the discarded read still clears VBLANK. -/
theorem test_nopUndoc_status :
    after { prog 0x8000 [0x0C, 0x02, 0x20] with ppu := { Ppu.blank with vblank := true } }
      (fun t => (t.ppu.vblank, t.pc, t.cycles)) = some (false, 0x8003, 4) := by
  decide

/-- R361. -/
theorem test_sbcUndoc :
    after { prog 0x8000 [0xEB, 0x03] with a := 0x05, p := 0x25 }
      (fun t => (t.a, t.p, t.cycles)) = some (0x02, 0x25, 2) := by
  decide

/-- R172 and R381: PC is pc0 + 1, and no tick happened. -/
theorem test_undefined :
    faultAfter (prog 0x8000 [0x02]) (fun t => (t.run, t.pc, t.cycles)) =
      some (.undefinedOpcode 0x02 0x8000, .faulted (.undefinedOpcode 0x02 0x8000), 0x8001, 0) := by
  decide

/-- R350: with the undocumented codes off, 0xA7 is absent, and its operand byte is not read. -/
theorem test_undocumented_off :
    faultAfter { prog 0x8000 [0xA7, 0x10] with config := { Config.default with undocEnabled := false } }
      (fun t => (t.pc, t.a)) = some (.undefinedOpcode 0xA7 0x8000, 0x8001, 0x00) := by
  decide

/-- R382 and R386: a store to PRG-ROM faults, and PC is still pc0 + 1. -/
theorem test_store_to_rom :
    faultAfter (prog 0x8000 [0x8D, 0x00, 0x80]) (fun t => (t.pc, t.cycles, t.prg.read 0)) =
      some (.illegalAccess 0x8000 .write, 0x8001, 0, 0x8D) := by
  decide

/-- A pending NMI at PC = 0x8005, with the vector 0x9234. -/
def nmiDue : State :=
  { State.reset with
    pc := 0x8005, prg := [(0x7FFA, 0x34), (0x7FFB, 0x92)], p := 0x30
    ppu := { Ppu.blank with scanline := 241, nmiPending := true } }

/-- R393: the pushes and SP. -/
theorem test_nmi_pushes :
    after nmiDue (fun t => (t.sp, t.ram.read 0x1FD, t.ram.read 0x1FC, t.ram.read 0x1FB)) =
      some (0xFA, 0x80, 0x05, 0x20) := by
  decide

/-- R392 and R393: the vector, I, the cycles, and the flag consumed. -/
theorem test_nmi_vector :
    after nmiDue (fun t => (t.pc, t.p, t.cycles, t.ppu.nmiPending)) = some (0x9234, 0x34, 7, false) := by
  decide
/-! ## For each statement with hypotheses, a case that meets them

A statement without hypotheses has no witness here: SpecWordsDecode, PopulatedCodes, ResetSetsTheCpu, InvAtReset,
BusTick, RegisterOpsComplete, BranchesComplete, PushPull, StackOpsComplete and FlagOpsComplete. -/

/-- The machine after reset in a PPU state. -/
def withPpu (p : Ppu) : State := { State.reset with ppu := p }

/-- The machine after reset in tolerant mode. -/
def tolerant : State := { State.reset with config := { Config.default with busMode := .tolerant } }

/-- Four-screen mirroring with PPUADDR in the third nametable. -/
def fourScreen : State := withPpu { Ppu.blank with mirroring := .fourScreen, vramAddr := 0x2800 }

/-! ### Encoding -/

theorem witness_DecodeOfEncode :
    (Instr.isb (.absX 0xFFFF)).wellFormed = true ∧ (Instr.nopUndoc 0x80 (.read (.imm 0xFF))).wellFormed = true ∧
    (Instr.undefined 0xF2).wellFormed = true := by decide

theorem witness_EncodeOfDecode :
    [[0xFF, 0xFF, 0xFF, 0x00], [0xEA], [0x02, 0xA9]].map decode =
      [.ok (.isb (.absX 0xFFFF), [0x00]), .ok (.nop, []), .ok (.undefined 0x02, [0xA9])] := by decide

/-- Each length with exactly enough bytes, and with one too few. -/
theorem witness_OpcodeGivesLength :
    codeLength 0xEA - 1 ≤ ([] : List Byte).length ∧ codeLength 0xA9 - 1 ≤ [(0x05 : Byte)].length ∧
    codeLength 0xAD - 1 ≤ [(0x34 : Byte), 0x12].length ∧ ([] : List Byte).length < codeLength 0xA9 - 1 ∧
    [(0x34 : Byte)].length < codeLength 0xAD - 1 := by decide

/-! ### Construction and invariants -/

theorem witness_ConstructionValues :
    ∃ s, construct blankCartridge blankFill Config.default = some s := ⟨_, construct_blank⟩

theorem witness_ConstructionValues_refused :
    [construct { blankCartridge with prg := [] } blankFill Config.default,
     construct { prg := [], chr := some [], mirroring := .vertical, mapper := 1 } blankFill Config.default] =
      [none, none] := by decide

theorem witness_InvAfterConstruction :
    ∃ s, construct blankCartridge blankFill Config.default = some s := ⟨_, construct_blank⟩

/-- The machine after reset with NOP next, and with the absent code 0x02 next. -/
def nopNext : State := { State.reset with prg := [(0, 0xEA)], pc := 0x8000 }
def absentNext : State := { State.reset with prg := [(0, 0x02)], pc := 0x8000 }

theorem inv_nopNext : Inv nopNext :=
  ⟨by decide, by decide, by decide, by decide, by decide, by decide, by decide, by constructor <;> decide, by decide,
    by decide, by decide, by decide, by decide, by decide⟩

theorem inv_absentNext : Inv absentNext :=
  ⟨by decide, by decide, by decide, by decide, by decide, by decide, by decide, by constructor <;> decide, by decide,
    by decide, by decide, by decide, by decide, by decide⟩

theorem witness_StepKeepsInv :
    Inv nopNext ∧ (nextState (step nopNext)).isSome = true ∧
    Inv absentNext ∧ (faultOf (step absentNext)).isSome = true :=
  ⟨inv_nopNext, by decide, inv_absentNext, by decide⟩

theorem witness_StepKeepsFixed :
    (nextState (step State.reset)).isSome = true ∧ (faultOf (step absentNext)).isSome = true := by decide

/-! ### Time -/

/-- The last dot of a frame. -/
def lastDot : Ppu := { Ppu.blank with scanline := 261, dot := 340, vblank := true, nmiPending := true }

/-- The last dot before VBLANK, with NMI_ENABLE and SHOW_SPRITES. -/
def beforeVblank : Ppu := { Ppu.blank with ctrl := 0x80, mask := 0x10, scanline := 240, dot := 340, oam := [(0, 0xF0)] }

theorem inFrame_lastDot : lastDot.InFrame := by constructor <;> decide

theorem inFrame_beforeVblank : beforeVblank.InFrame := by constructor <;> decide

theorem witness_TickMovesPosition : lastDot.InFrame ∧ beforeVblank.InFrame :=
  ⟨inFrame_lastDot, inFrame_beforeVblank⟩

/-- A dot that enters line 241, none that does not, and a wrap with no dot to spare. -/
theorem witness_TickVblank :
    beforeVblank.InFrame ∧ lastDot.InFrame ∧ beforeVblank.position + 1 < frameDots ∧
    (beforeVblank.position < 241 * 341 ∧ 241 * 341 ≤ beforeVblank.position + 1) ∧
    ¬(beforeVblank.position < 241 * 341 ∧ 241 * 341 ≤ beforeVblank.position + 0) ∧
    frameDots ≤ lastDot.position + 1 :=
  ⟨inFrame_beforeVblank, inFrame_lastDot, by decide, by decide, by decide, by decide⟩

/-- What R414 and R415 say of those ticks. -/
theorem test_ticks :
    [ppuTick .standard 1 beforeVblank, ppuTick .standard 0 beforeVblank, ppuTick .standard 1 lastDot].map
      (fun r => (r.1.vblank, r.1.nmiPending, r.1.sprite0Hit, r.2)) =
      [(true, true, true, false), (false, false, false, false), (false, false, false, true)] := by decide

theorem witness_TickSpriteZero :
    beforeVblank.InFrame ∧ lastDot.InFrame ∧ beforeVblank.position + 1 < frameDots ∧
    frameDots ≤ lastDot.position + 1 ∧ beforeVblank.dot + 0 < 341 ∧
    (341 ≤ lastDot.dot + 1 ∧ lastDot.dot + 1 < 682) ∧
    ({ beforeVblank with sprite0Hit := true } : Ppu).sprite0Hit = true :=
  ⟨inFrame_beforeVblank, inFrame_lastDot, by decide, by decide, by decide, by decide, by decide⟩

/-- A replaced SPRITE_EVAL (R415): on leaving line 240 it sets OVERFLOW and asks for no hit, on leaving another line it
clears OVERFLOW and sets SPRITE0_HIT. -/
def otherRule : SpriteEval :=
  .test (.bit .scanline 4) (.act ⟨false, some true⟩) (.act ⟨true, some false⟩)

/-- R61: a rule that asks for no hit leaves SPRITE0_HIT, the rule writes OVERFLOW both ways, and the wrap clears only
SPRITE0_HIT. -/
theorem test_replaced_spriteEval :
    [ppuTick otherRule 1 { beforeVblank with sprite0Hit := true },
      ppuTick otherRule 1 { lastDot with scanline := 111, overflow := true },
      ppuTick (.act ⟨true, none⟩) 1 { lastDot with overflow := true }].map
      (fun r => (r.1.sprite0Hit, r.1.overflow)) = [(true, true), (true, false), (false, true)] := by decide

theorem witness_StepClock :
    State.reset.ppu.InFrame ∧ (nextState (step State.reset)).isSome = true :=
  ⟨by constructor <;> decide, by decide⟩

/-! ### The step -/

theorem witness_StepRunsDecoded :
    ∃ (s : State) (i : Instr) (bytes : List Byte),
      s.run = .running ∧ s.ppu.nmiPending = false ∧ decode bytes = .ok (i, []) ∧
      (∀ op, i.op = some op → op.documented = true ∨ s.config.undocEnabled = true) ∧
      ∀ k b, bytes[k]? = some b →
        busRead (s.pc + BitVec.ofNat 16 k) { s with frameEvent := false, frameComplete := false } =
          .ok b { s with frameEvent := false, frameComplete := false } := by
  refine ⟨prog 0x8000 [0xBD, 0xFF, 0x02], .lda (.mem (.absX 0x02FF)), [0xBD, 0xFF, 0x02], rfl, rfl, by decide,
    fun op _ => .inr rfl, fun k b h => ?_⟩
  rcases k with _ | _ | _ | k
  · cases h; decide
  · cases h; decide
  · cases h; decide
  · cases h

theorem witness_FetchFaults :
    (busRead absentNext.pc absentNext = .ok 0x02 absentNext ∧ 0x02 ∈ absentCodes) ∧
    (∃ e, lookup 0xA7 = some e ∧ e.op.documented = false) ∧
    busRead 0x2000 { State.reset with pc := 0x2000 } =
      .fault (raise (.illegalAccess 0x2000 .read) { State.reset with pc := 0x2000 }) :=
  ⟨⟨by decide, by decide⟩, ⟨⟨0xA7, .lax, .zeroPage, 3, false⟩, by decide, by decide⟩, by decide⟩

/-- JMP at 0x1FFF, whose first operand byte is at 0x2000, and at 0x1FFE from RAM, whose second is. -/
def jmpInto (pc : Addr) (ram : Memory) : State := { State.reset with pc := pc, ram := ram }

theorem witness_FetchFaults_operands :
    let s := jmpInto 0x1FFF [(0x7FF, 0x4C)]
    let t := jmpInto 0x1FFE [(0x7FE, 0x4C)]
    (s.run = .running ∧ s.ppu.nmiPending = false ∧ busRead 0x1FFF s = .ok 0x4C s ∧
      lookup 0x4C = some ⟨0x4C, .jmp, .absolute, 3, false⟩ ∧ Op.jmp.documented = true ∧ Mode.absolute.length = 3 ∧
      busRead 0x2000 { s with pc := 0x2000 } = .fault (raise (.illegalAccess 0x2000 .read) { s with pc := 0x2000 })) ∧
    busRead 0x1FFE t = .ok 0x4C t ∧ busRead 0x1FFF { t with pc := 0x1FFF } = .ok 0x00 { t with pc := 0x1FFF } ∧
    busRead 0x2000 { t with pc := 0x1FFF } =
      .fault (raise (.illegalAccess 0x2000 .read) { t with pc := 0x1FFF }) := by decide

/-- R387: the fault is of the operand read, with PC = pc0 + 1 and no tick. -/
theorem test_operand_read_faults :
    faultAfter (jmpInto 0x1FFF [(0x7FF, 0x4C)]) (fun t => (t.pc, t.cycles)) =
      some (.illegalAccess 0x2000 .read, 0x2000, 0) := by decide

theorem witness_StepNotRunning :
    ({ State.reset with run := .halted } : State).run = .halted ∧
    ({ State.reset with run := .needsReset } : State).run = .needsReset ∧
    ({ State.reset with run := .faulted .notReset } : State).run = .faulted .notReset ∧
    ({ State.reset with run := .faulted (.undefinedOpcode 0x02 0x8000) } : State).run =
      .faulted (.undefinedOpcode 0x02 0x8000) ∧
    ({ State.reset with run := .faulted (.illegalAccess 0x2002 .write) } : State).run =
      .faulted (.illegalAccess 0x2002 .write) ∧
    ({ State.reset with run := .faulted (.unmodelled 0x2800) } : State).run = .faulted (.unmodelled 0x2800) := by
  decide

theorem witness_NmiEntry : nmiDue.run = .running ∧ nmiDue.ppu.nmiPending = true := by decide

theorem witness_RtiAfterNmi :
    nmiDue.run = .running ∧ nmiDue.ppu.nmiPending = true ∧ (nextState (step nmiDue)).isSome = true := by decide

/-- A fault of a running machine, of one that was never reset, and of one that has faulted. -/
theorem witness_FaultIsTerminal :
    [absentNext, { State.reset with run := .needsReset }, { State.reset with run := .faulted .notReset }].map
      (fun s => (faultOf (step s)).isSome) = [true, true, true] := by decide

/-- R386, R384: after the first step RUN is Faulted(NotReset), and nothing else has changed. -/
theorem test_notReset :
    faultOf (step { State.reset with run := .needsReset }) =
      some (.notReset { State.reset with run := .faulted .notReset }) := by decide

/-- A taken branch to another page, which ticks the two extra cycles. -/
theorem witness_StepPcAndCycles :
    let s := prog 0x8100 [0x50, 0x80]
    s.run = .running ∧ s.ppu.nmiPending = false ∧
    busRead s.pc { s with frameEvent := false, frameComplete := false } =
      .ok 0x50 { s with frameEvent := false, frameComplete := false } ∧
    lookup 0x50 = some ⟨0x50, .bvc, .relative, 2, false⟩ ∧ (nextState (step s)).isSome = true := by decide

/-- The same for an instruction that is no control transfer. -/
theorem witness_StepPcAndCycles_plain :
    let s := prog 0x8000 [0xA9, 0x80]
    s.run = .running ∧ s.ppu.nmiPending = false ∧
    busRead s.pc { s with frameEvent := false, frameComplete := false } =
      .ok 0xA9 { s with frameEvent := false, frameComplete := false } ∧
    lookup 0xA9 = some ⟨0xA9, .lda, .immediate, 2, false⟩ ∧ (nextState (step s)).isSome = true := by decide

/-! ### Frames -/

theorem witness_RegistersWrittenOnlyBy :
    (nextState (exec .nop State.reset)).isSome = true ∧ Instr.nop.writesA = false ∧ Instr.nop.writesX = false ∧
    Instr.nop.writesY = false ∧ Instr.nop.writesSp = false := by decide

theorem witness_FlagsWrittenOnlyBy :
    (nextState (exec (.inc (.zp 0xFF)) State.reset)).isSome = true ∧ (Instr.inc (.zp 0xFF)).writesFlag .c = false ∧
    (Instr.inc (.zp 0xFF)).writesFlag .v = false := by decide

theorem witness_NoStoreLeavesBytes :
    (nextState (exec (.cmp (.mem (.abs 0x2007))) State.reset)).isSome = true ∧
    (Instr.cmp (.mem (.abs 0x2007))).stores = false := by decide

theorem witness_NoAccessLeavesDevices :
    (nextState (exec .php State.reset)).isSome = true ∧ Instr.php.accessesData = false := by decide

/-- A store through the data port, and the pushes. -/
theorem witness_StoresLeaveOtherBytes :
    resolve (.abs 0x2007) State.reset = .ok ⟨0x2007, false⟩ State.reset ∧
    (nextState (exec (.sta (.abs 0x2007)) State.reset)).isSome = true ∧
    storesTo 0x2007 State.reset .chr 0 = true ∧ storesTo 0x2007 State.reset .chr 1 = false ∧
    (nextState (exec .pha State.reset)).isSome = true ∧
    (nextState (exec (.jsr 0x9000) State.reset)).isSome = true := by
  decide

/-- INC of the data port: the write goes to the advanced address. -/
theorem witness_RmwLeavesOtherBytes :
    let w : State := withPpu { Ppu.blank with vramAddr := 1 }
    resolve (.abs 0x2007) State.reset = .ok ⟨0x2007, false⟩ State.reset ∧
    busRead 0x2007 State.reset = .ok 0x00 w ∧
    (nextState (exec (.inc (.abs 0x2007)) State.reset)).isSome = true ∧
    storesTo 0x2007 w .chr 1 = true ∧ storesTo 0x2007 w .chr 0 = false := by decide

theorem witness_EffectiveAddresses :
    resolve (.zp 0xFF) State.reset = .ok ⟨0x00FF, false⟩ State.reset ∧
    busRead 0x00FF State.reset = .ok 0x00 State.reset ∧
    resolve (.abs 0x2000) State.reset = .ok ⟨0x2000, false⟩ State.reset ∧
    busRead 0x2000 State.reset = .fault (raise (.illegalAccess 0x2000 .read) State.reset) := by decide

/-- A read that faults, a store that faults, and each read-modify-write of PRG-ROM, whose write faults. -/
theorem witness_FaultingAccessesStop :
    readSource (.mem (.abs 0x2000)) State.reset = .fault (raise (.illegalAccess 0x2000 .read) State.reset) ∧
    resolve (.abs 0x8000) State.reset = .ok ⟨0x8000, false⟩ State.reset ∧
    busWrite 0x8000 0x00 State.reset = .fault (raise (.illegalAccess 0x8000 .write) State.reset) ∧
    busRead 0x8000 State.reset = .ok 0x00 State.reset ∧
    busWrite 0x8000 0xFF State.reset = .fault (raise (.illegalAccess 0x8000 .write) State.reset) ∧
    busWrite 0x8000 0x00 { State.reset with p := cBits 0x24 false } =
      .fault (raise (.illegalAccess 0x8000 .write) { State.reset with p := cBits 0x24 false }) := by decide

/-! ### Results

The tests above run each of these instructions through the step; here the operand that the statement speaks of. -/

theorem witness_LoadsComplete :
    readSource (.imm 0x80) State.reset = .ok (0x80, false) State.reset ∧
    readSource (.mem (.abs 0x4015)) State.reset = .ok (0x00, false) State.reset ∧
    (Instr.lda (.imm 0x80)).wellFormed = true ∧ (Instr.ldx (.imm 0x80)).wellFormed = true ∧
    (Instr.ldy (.imm 0x80)).wellFormed = true ∧ (Instr.lax (.abs 0x4015)).wellFormed = true := by decide

theorem witness_StoresComplete :
    resolve (.abs 0x07FF) State.reset = .ok ⟨0x07FF, false⟩ State.reset ∧
    busWrite 0x07FF 0x00 State.reset = .ok 0 State.reset ∧ State.reset.a = 0x00 ∧ State.reset.x = 0x00 ∧
    State.reset.y = 0x00 ∧ [Instr.sta (.abs 0x07FF), .stx (.abs 0x07FF), .sty (.abs 0x07FF),
      .sax (.abs 0x07FF)].all Instr.wellFormed = true := by decide

theorem witness_AddSubComplete :
    readSource (.imm 0xFF) State.reset = .ok (0xFF, false) State.reset ∧ (Instr.adc (.imm 0xFF)).wellFormed = true ∧
    (Instr.sbc (.imm 0xFF)).wellFormed = true := by decide

theorem witness_AddSubArithmetic :
    readSource (.imm 0xFF) State.reset = .ok (0xFF, false) State.reset ∧
    (nextState (exec (.adc (.imm 0xFF)) State.reset)).isSome = true ∧
    (nextState (exec (.sbc (.imm 0xFF)) State.reset)).isSome = true := by decide

theorem witness_LogicAndComparesComplete :
    readSource (.mem (.zp 0x10)) State.reset = .ok (0x00, false) State.reset ∧
    [Instr.and (.mem (.zp 0x10)), .ora (.mem (.zp 0x10)), .eor (.mem (.zp 0x10)), .cmp (.mem (.zp 0x10)),
      .cpx (.mem (.zp 0x10)), .cpy (.mem (.zp 0x10)), .bit (.zp 0x10)].all Instr.wellFormed = true := by decide

theorem witness_IncDecComplete :
    resolve (.zp 0x10) State.reset = .ok ⟨0x0010, false⟩ State.reset ∧
    busRead 0x0010 State.reset = .ok 0x00 State.reset ∧
    busWrite 0x0010 0x01 State.reset = .ok 0 (withRam 0x10 0x01 State.reset) ∧
    busWrite 0x0010 0xFF State.reset = .ok 0 (withRam 0x10 0xFF State.reset) ∧
    (Instr.inc (.zp 0x10)).wellFormed = true ∧ (Instr.dec (.zp 0x10)).wellFormed = true := by decide

/-- Byte 0 shifts to 0 in all four while C is 0, so one write serves them all. -/
theorem witness_ShiftsComplete :
    let s1 : State := { State.reset with p := cBits 0x24 false }
    resolve (.zp 0x10) State.reset = .ok ⟨0x0010, false⟩ State.reset ∧
    busRead 0x0010 State.reset = .ok 0x00 State.reset ∧ State.reset.flag .c = false ∧
    busWrite 0x0010 0x00 s1 = .ok 0 s1 ∧
    [Instr.asl (.mem (.zp 0x10)), .lsr (.mem (.zp 0x10)), .rol (.mem (.zp 0x10)),
      .ror (.mem (.zp 0x10))].all Instr.wellFormed = true := by decide

theorem witness_CompositesComplete :
    let s1 : State := { State.reset with p := cBits 0x24 false }
    resolve (.zp 0x10) State.reset = .ok ⟨0x0010, false⟩ State.reset ∧
    busRead 0x0010 State.reset = .ok 0x00 State.reset ∧ State.reset.flag .c = false ∧
    busWrite 0x0010 0x00 s1 = .ok 0 s1 ∧
    busWrite 0x0010 0x01 State.reset = .ok 0 (withRam 0x10 0x01 State.reset) ∧
    busWrite 0x0010 0xFF State.reset = .ok 0 (withRam 0x10 0xFF State.reset) ∧
    [Instr.slo (.zp 0x10), .rla (.zp 0x10), .sre (.zp 0x10), .rra (.zp 0x10), .dcp (.zp 0x10),
      .isb (.zp 0x10)].all Instr.wellFormed = true := by decide

/-- A pointer at the end of a page; one whose low byte's read faults; and one in the page of PPUSTATUS whose high
byte's read faults. -/
theorem witness_JumpsComplete :
    busRead 0x02FF State.reset = .ok 0x00 State.reset ∧ busRead 0x0200 State.reset = .ok 0x00 State.reset ∧
    busRead 0x2000 State.reset = .fault (raise (.illegalAccess 0x2000 .read) State.reset) ∧
    busRead 0x2002 State.reset = .ok 0x00 State.reset ∧
    busRead 0x2003 State.reset = .fault (raise (.illegalAccess 0x2003 .read) State.reset) := by decide

theorem witness_RtsAfterJsr : (nextState (exec (.jsr 0x9000) State.reset)).isSome = true := by decide

theorem witness_BrkHalts : (nextState (exec .brk State.reset)).isSome = true := by decide

theorem witness_NopsComplete :
    (Instr.nopUndoc 0x0C (.read (.mem (.abs 0x4015)))).wellFormed = true ∧
    readSource (.mem (.abs 0x4015)) State.reset = .ok (0x00, false) State.reset := by decide

/-! ### The bus, at the ends of each region -/

theorem witness_RamMirrors :
    (0x1FFF : Addr).toNat < 0x2000 ∧ (0x07FF : Addr).toNat < 0x800 ∧
    busWrite 0x07FF 0x5A State.reset = .ok 0 (withRam 0x7FF 0x5A State.reset) := by decide

/-- R88, R90 and R91 at the ends of their ranges. -/
theorem witness_PlainRegions :
    [busRead 0x4000 State.reset, busRead 0x4013 State.reset, busRead 0x4015 State.reset, busRead 0x4017 State.reset,
      busRead 0x5FFF State.reset, busRead 0x6000 State.reset, busRead 0x7FFF State.reset, busRead 0x8000 State.reset,
      busRead 0xFFFF State.reset] = List.replicate 9 (.ok 0x00 State.reset) := by decide

/-- R93: each illegal read, and each illegal write, at its first address or its last mirror; strict mode. -/
theorem witness_IllegalAccesses :
    [0x2000, 0x2001, 0x2003, 0x2005, 0x3FFE, 0x4014].map (fun a => busRead a State.reset) =
      [0x2000, 0x2001, 0x2003, 0x2005, 0x3FFE, 0x4014].map
        (fun a => .fault (raise (.illegalAccess a .read) State.reset)) ∧
    [0x2002, 0x3FFA, 0x8000, 0xFFFF].map (fun a => busWrite a 0x01 State.reset) =
      [0x2002, 0x3FFA, 0x8000, 0xFFFF].map (fun a => .fault (raise (.illegalAccess a .write) State.reset)) := by
  decide

/-- The CHR-ROM write in strict mode faults at the CPU's address; in tolerant mode it only advances PPUADDR. -/
theorem witness_IllegalAccesses_chrRom :
    let p : Ppu := { Ppu.blank with chrRom := true, vramAddr := 0x1FFF }
    let s : State := withPpu p
    let t : State := { tolerant with ppu := p }
    busWrite 0x3FFF 0x01 s = .fault (raise (.illegalAccess 0x3FFF .write) s) ∧
    busWrite 0x3FFF 0x01 t = .ok 0 { t with ppu := { p with vramAddr := 0x2000 } } ∧
    busWrite 0x2002 0x01 t = .ok 0 t ∧ tolerant.config.busMode = .tolerant := by decide

/-- A read of each clause, at the ends of the regions; the illegal ones complete in tolerant mode. -/
theorem witness_ReadSideEffects :
    let q : State := withPpu { Ppu.blank with vblank := true, w := true }
    busRead 0x3FFA q = .ok 0x80 State.reset ∧
    busRead 0x3FFF State.reset = .ok 0x00 (withPpu { Ppu.blank with vramAddr := 1 }) ∧
    busRead 0x4016 State.reset = .ok 0x00 { State.reset with cursor := 1 } ∧
    [0x2000, 0x3FF9, 0x2003, 0x2005, 0x3FFE, 0x4014].map (fun a => busRead a tolerant) =
      List.replicate 6 (.ok (Config.freeByte 0) { tolerant with draws := 1 }) ∧
    [0x0000, 0x1FFF, 0x3FFC, 0x4000, 0x4013, 0x4015, 0x4017, 0xFFFF].map (fun a => busRead a tolerant) =
      List.replicate 8 (.ok 0x00 tolerant) :=
  ⟨by decide, by decide, by decide, by rfl, by decide⟩

theorem witness_BusWriteFrame :
    busWrite 0x0000 0x01 State.reset = .ok 0 (withRam 0 0x01 State.reset) ∧
    storesTo 0x0000 State.reset .ram 0 = true ∧ storesTo 0x0000 State.reset .ram 1 = false ∧
    storesTo 0x2004 State.reset .oam 0 = true ∧ storesTo 0x4014 State.reset .oam 0xFF = true := by decide

/-- The registers of the window at its first and its last mirror. -/
theorem witness_StatusControlMask :
    (0x2000 ≤ (0x2002 : Addr).toNat ∧ (0x3FFA : Addr).toNat < 0x4000) ∧ (0x3FFA : Addr).toNat % 8 = 2 ∧
    (0x2000 : Addr).toNat % 8 = 0 ∧ (0x3FF8 : Addr).toNat % 8 = 0 ∧ (0x3FF9 : Addr).toNat % 8 = 1 := by decide

/-- R404: the 0→1 edge of NMI_ENABLE in vblank raises the NMI; R403: the status read leaves it pending. -/
theorem test_ctrl_edge :
    busWrite 0x2000 0x80 (withPpu { Ppu.blank with vblank := true }) =
      .ok 0 (withPpu { Ppu.blank with vblank := true, ctrl := 0x80, nmiPending := true }) ∧
    busRead 0x2002 (withPpu { Ppu.blank with vblank := true, w := true, nmiPending := true }) =
      .ok 0x80 (withPpu { Ppu.blank with nmiPending := true }) := by decide

/-- R406: 0x2006 ← 0x7F, 0xFF gives 0x3FFF. -/
theorem witness_ScrollAndAddr :
    (0x3FFD : Addr).toNat % 8 = 5 ∧ (0x3FFE : Addr).toNat % 8 = 6 ∧
    busWrite 0x3FFE 0x7F State.reset = .ok 0 (withPpu { Ppu.blank with vramAddr := 0x3F00, w := true }) ∧
    busWrite 0x2006 0xFF (withPpu { Ppu.blank with vramAddr := 0x3F00, w := true }) =
      .ok 0 (withPpu { Ppu.blank with vramAddr := 0x3FFF }) := by decide

/-- The data port on both sides of 0x3F00, and where it faults. -/
theorem witness_DataPort :
    let q : State := withPpu { Ppu.blank with vramAddr := 0x3EFF, vram := [(0x6FF, 0x55)] }
    let r : State := withPpu { Ppu.blank with vramAddr := 0x3F00 }
    (0x3FFF : Addr).toNat % 8 = 7 ∧ ppuRead 0x3EFF q = .ok 0x55 q ∧ ppuRead 0x3F00 r = .ok 0x00 r ∧
    ppuWrite 0x2007 0x3F00 0x00 r = .ok () r ∧
    ppuRead 0x2800 fourScreen = .fault (raise (.unmodelled 0x2800) fourScreen) ∧
    ppuWrite 0x2007 0x2800 0x01 fourScreen = .fault (raise (.unmodelled 0x2800) fourScreen) := by decide

/-- R103 to R105 at the ends of their ranges: the cell that each address leads to. -/
theorem witness_PpuAddressMap :
    [ppuCell .horizontal 0x1FFF, ppuCell .horizontal 0x2400, ppuCell .horizontal 0x2BFF, ppuCell .vertical 0x2400,
      ppuCell .vertical 0x3EFF, ppuCell .fourScreen 0x27FF, ppuCell .fourScreen 0x2800, ppuCell .fourScreen 0x2FFF,
      ppuCell .vertical 0x3F00, ppuCell .vertical 0x3F10, ppuCell .vertical 0x3F11, ppuCell .vertical 0x3FFC,
      ppuCell .vertical 0x3FFF] =
    [.chr 0x1FFF, .vram 0x000, .vram 0x7FF, .vram 0x400, .vram 0x6FF, .vram 0x7FF, .missing, .missing,
      .palette 0x00, .palette 0x00, .palette 0x11, .palette 0x0C, .palette 0x1F] := by decide

theorem witness_OamPort :
    (0x3FFB : Addr).toNat % 8 = 3 ∧ (0x3FFC : Addr).toNat % 8 = 4 ∧
    busWrite 0x3FFC 0x01 (withPpu { Ppu.blank with oamAddr := 0xFF }) =
      .ok 0 (withPpu { Ppu.blank with oam := [(0xFF, 0x01)] }) := by decide

/-- The machine after reset with `n` zeros copied to OAM: what a copy from an unmapped page passes through. -/
def zerosCopied : Nat → State
  | 0 => State.reset
  | n + 1 =>
    let t := zerosCopied n
    { t with ppu := { t.ppu with oam := t.ppu.oam.write t.ppu.oamAddr.toNat 0x00, oamAddr := t.ppu.oamAddr + 1 } }

/-- The first clause with all 256 bytes, from page 0x41. -/
theorem witness_OamDma_copy :
    zerosCopied 0 = State.reset ∧ ∀ i, i < 256 →
      busRead (addr16 0x41 (BitVec.ofNat 8 i)) (zerosCopied i) = .ok 0x00 (zerosCopied i) := by
  refine ⟨rfl, fun i _ => ?_⟩
  have hi : (BitVec.ofNat 8 i).toNat < 256 := (BitVec.ofNat 8 i).isLt
  have hn : (addr16 0x41 (BitVec.ofNat 8 i)).toNat = 0x4100 + (BitVec.ofNat 8 i).toNat := toNat_addr16 _ _
  have : busCell (addr16 0x41 (BitVec.ofNat 8 i)) = .unmapped := by
    simp only [busCell, hn]
    rw [if_neg (by omega), if_neg (by omega), if_neg (by omega), if_neg (by omega), if_pos (by omega)]
  simp only [busRead, this]

/-- The first clause with a read that faults: the first of page 0x20, and the 21st of page 0x40. -/
theorem witness_OamDma_fault :
    busRead (addr16 0x20 0x00) (zerosCopied 0) = .fault (raise (.illegalAccess 0x2000 .read) (zerosCopied 0)) ∧
    ((List.range 0x14).map fun i => busRead (addr16 0x40 (BitVec.ofNat 8 i)) (zerosCopied i)) =
      (List.range 0x14).map (fun i => .ok 0x00 (zerosCopied i)) ∧
    busRead (addr16 0x40 0x14) (zerosCopied 0x14) =
      .fault (raise (.illegalAccess 0x4014 .read) (zerosCopied 0x14)) := by decide

/-- The pages at the ends of the other clauses, a byte of one of them, both bus modes, and a mirroring that is not
four-screen. -/
theorem witness_OamDma :
    ((0x1F : Byte).toNat < 0x20 ∧ 0x41 ≤ (0x41 : Byte).toNat ∧ (0x5F : Byte).toNat < 0x60 ∧
      0x20 ≤ (0x20 : Byte).toNat ∧ (0x3F : Byte).toNat < 0x40) ∧
    busRead (addr16 0x03 0xFF) (withRam 0x3FF 0x77 State.reset) = .ok 0x77 (withRam 0x3FF 0x77 State.reset) ∧
    State.reset.config.busMode = .strict ∧ tolerant.config.busMode = .tolerant ∧
    tolerant.ppu.mirroring ≠ .fourScreen ∧
    busWrite 0x4014 0x20 State.reset = .fault (raise (.illegalAccess 0x2000 .read) State.reset) := by decide

/-- R411: the page's first byte lands at OAMADDR, and its last one below it. -/
theorem test_oamDma :
    busWrite 0x4014 0x03 { State.reset with
        ram := [(0x300, 0x11), (0x3FF, 0x22)], ppu := { Ppu.blank with oamAddr := 0x10 } } =
      .ok 0 { State.reset with
        ram := [(0x300, 0x11), (0x3FF, 0x22)]
        ppu := { Ppu.blank with oamAddr := 0x10, oam := [(0x0F, 0x22), (0x10, 0x11)] } } := by
  decide +kernel

/-- CURSOR at 7 and at 8. -/
theorem witness_InputLatch :
    let s : State := { State.reset with cursor := 7, buttons := 0x80 }
    let t : State := { s with cursor := 8 }
    s.cursor < 8 ∧ 8 ≤ t.cursor ∧ busRead 0x4016 s = .ok 0x01 t ∧ busRead 0x4016 t = .ok 0x01 t ∧
    busWrite 0x4016 0xFF t = .ok 0 { t with strobe := true, cursor := 0 } := by decide

end Sys2Proof.Tests
end

section
/-! What no step writes: PRG-ROM, CHR-ROM, the mirroring, the parameters and the buttons (O11). The whole-machine
claim is an instance of `Kept` (Laws/Kept.lean): every primitive update keeps `SameFixed s`. -/

namespace Sys2Proof.Machine

/-! ## A kept predicate over a whole step -/

/-- A predicate that the primitive updates, a Tick, a write of RUN, the clearing of the report and the NMI poll keep
holds of the next state of every step and of the state that a fault leaves (R170, R386, R392). -/
theorem Kept.step_keeps {P : State → Prop} (hP : Kept P) (hReport : ∀ s, P s → P (s.setReport false false))
    (hPoll : ∀ s, P s → P (s.setPpu { s.ppu with nmiPending := false })) (hTick : ∀ n s, P s → P (tick n s))
    (hRun : ∀ s r, P s → P (s.setRun r)) {s : State} (h : P s) :
    (∀ t, Machine.step s = .next t → P t) ∧ (∀ f, Machine.step s = .fault f → P f.left) := by
  have key := hP.step hReport hPoll h
  refine ⟨fun t ht => ?_, fun f hf => ?_⟩
  · rw [ht] at key
    obtain hstay | ⟨n, u, hu, rfl | rfl | ⟨v, rfl⟩⟩ := key
    · exact hstay
    · exact hTick n u hu
    · exact hRun _ _ (hTick n u hu)
    · exact hP.setPc _ v (hTick n u hu)
  · rw [hf] at key
    obtain ⟨u, i, hu, rfl⟩ | ⟨i, -, rfl⟩ := key
    · rw [left_raise]
      exact hRun u _ hu
    · rw [left_faultWith]
      exact hReport s h

/-! ## What an update leaves fixed -/

namespace SameFixed
variable {s t u : State}

theorem refl (s : State) : SameFixed s s := ⟨rfl, rfl, rfl, rfl, rfl, fun _ => rfl, rfl⟩

/-- An update of the CPU's or the bus's state alone: the fixed fields and the PPU are as they were. -/
theorem of_eq (h : SameFixed s t) (hprg : u.prg = t.prg) (hsize : u.prgSize = t.prgSize)
    (hconfig : u.config = t.config) (hbuttons : u.buttons = t.buttons) (hppu : u.ppu = t.ppu) : SameFixed s u :=
  ⟨hprg.trans h.prg, hsize.trans h.prgSize, hconfig.trans h.config, hppu ▸ h.mirroring, hppu ▸ h.chrRom,
    hppu ▸ h.chr, hbuttons.trans h.buttons⟩

/-- An update of the PPU that leaves the mirroring, the kind of CHR and, where it is CHR-ROM, its bytes (R55, R68). -/
theorem setPpu (h : SameFixed s t) {q : Ppu} (hmirroring : q.mirroring = t.ppu.mirroring)
    (hrom : q.chrRom = t.ppu.chrRom) (hchr : t.ppu.chrRom = true → q.chr = t.ppu.chr) : SameFixed s (t.setPpu q) :=
  ⟨h.prg, h.prgSize, h.config, hmirroring.trans h.mirroring, hrom.trans h.chrRom,
    fun hs => (hchr (h.chrRom.trans hs)).trans (h.chr hs), h.buttons⟩

/-- An update of the PPU that leaves everything the cartridge gives it. -/
theorem setPpu_of_sameCart (h : SameFixed s t) {q : Ppu}
    (hq : q.mirroring = t.ppu.mirroring ∧ q.chrRom = t.ppu.chrRom ∧ q.chr = t.ppu.chr) : SameFixed s (t.setPpu q) :=
  have ⟨hmirroring, hrom, hchr⟩ := hq
  h.setPpu hmirroring hrom fun _ => hchr

theorem tick (n : Nat) (h : SameFixed s t) : SameFixed s (tick n t) := by
  have data := sameData_tick n t
  exact ⟨h.prg, h.prgSize, h.config, data.mirroring.trans h.mirroring, data.chrRom.trans h.chrRom,
    fun hs => data.chr.trans (h.chr hs), h.buttons⟩

end SameFixed

/-! ## What a PPU register write leaves of the cartridge -/

theorem Ppu.writeScroll_cart (p : Ppu) (v : Byte) :
    (p.writeScroll v).mirroring = p.mirroring ∧ (p.writeScroll v).chrRom = p.chrRom ∧
      (p.writeScroll v).chr = p.chr := by
  unfold Ppu.writeScroll
  split <;> exact ⟨rfl, rfl, rfl⟩

theorem Ppu.writeAddr_cart (p : Ppu) (v : Byte) :
    (p.writeAddr v).mirroring = p.mirroring ∧ (p.writeAddr v).chrRom = p.chrRom ∧
      (p.writeAddr v).chr = p.chr := by
  unfold Ppu.writeAddr
  split <;> exact ⟨rfl, rfl, rfl⟩

theorem latchWrite_sameFixed {s t : State} (v : Byte) (h : SameFixed s t) : SameFixed s (latchWrite v t) := by
  unfold latchWrite
  split <;> exact h.of_eq rfl rfl rfl rfl rfl

/-! ## The kept predicate -/

/-- No bus access writes what is fixed: a CHR write reaches the array only where it is not CHR-ROM (R102), and no
write reaches PRG-ROM (R92). -/
theorem keptByBus_sameFixed (s : State) : KeptByBus (SameFixed s) where
  draw _ h := h.of_eq rfl rfl rfl rfl rfl
  status _ h := h.setPpu_of_sameCart ⟨rfl, rfl, rfl⟩
  increment _ h := h.setPpu_of_sameCart ⟨rfl, rfl, rfl⟩
  readBuf _ _ h := h.setPpu_of_sameCart ⟨rfl, rfl, rfl⟩
  ctrl _ _ h := h.setPpu_of_sameCart ⟨rfl, rfl, rfl⟩
  mask _ _ h := h.setPpu_of_sameCart ⟨rfl, rfl, rfl⟩
  oamAddr _ _ h := h.setPpu_of_sameCart ⟨rfl, rfl, rfl⟩
  oam _ _ h := h.setPpu_of_sameCart ⟨rfl, rfl, rfl⟩
  scroll t v h := h.setPpu_of_sameCart (t.ppu.writeScroll_cart v)
  addr t v h := h.setPpu_of_sameCart (t.ppu.writeAddr_cart v)
  chr _ _ _ _ hram h := h.setPpu rfl rfl fun hrom => absurd (hram.symm.trans hrom) Bool.false_ne_true
  vram _ _ _ _ h := h.setPpu_of_sameCart ⟨rfl, rfl, rfl⟩
  palette _ _ _ _ h := h.setPpu_of_sameCart ⟨rfl, rfl, rfl⟩
  cursor _ _ _ h := h.of_eq rfl rfl rfl rfl rfl
  latch _ v h := latchWrite_sameFixed v h
  ram _ _ _ _ h := h.of_eq rfl rfl rfl rfl rfl
  prgRam _ _ _ _ h := h.of_eq rfl rfl rfl rfl rfl

/-- No instruction writes what is fixed: beside its accesses it writes the CPU's registers alone. -/
theorem kept_sameFixed (s : State) : Kept (SameFixed s) where
  toKeptByBus := keptByBus_sameFixed s
  setA _ _ h := h.of_eq rfl rfl rfl rfl rfl
  setX _ _ h := h.of_eq rfl rfl rfl rfl rfl
  setY _ _ h := h.of_eq rfl rfl rfl rfl rfl
  setSp _ _ h := h.of_eq rfl rfl rfl rfl rfl
  setPc _ _ h := h.of_eq rfl rfl rfl rfl rfl
  setFlag _ _ _ _ _ h := h.of_eq rfl rfl rfl rfl rfl
  loadP _ _ h := h.of_eq rfl rfl rfl rfl rfl

end Sys2Proof.Machine

namespace Sys2Proof.Proofs.Scope
open Sys2Proof.Machine

/-- Settles O11: `SameFixed s` holds of `s` and is a kept predicate, which the report, the NMI poll, the Tick and a
write of RUN keep too. -/
theorem stepKeepsFixed : Obligations.StepKeepsFixed := fun s =>
  (kept_sameFixed s).step_keeps (fun _ h => h.of_eq rfl rfl rfl rfl rfl)
    (fun _ h => h.setPpu_of_sameCart ⟨rfl, rfl, rfl⟩) (fun n _ h => h.tick n)
    (fun _ _ h => h.of_eq rfl rfl rfl rfl rfl) (SameFixed.refl s)

end Sys2Proof.Proofs.Scope
end

section
/-! The machine's invariant: every primitive update keeps it, so every step does, and construction followed by
`reset()` establishes it; with the values of construction and the steps of a machine that is not running (O7 to O10,
O19). -/

namespace Sys2Proof.Machine

/-! ## The invariant over the PPU's register writes -/

section invariant
variable {s : State}

/-- A write to PPUCTRL makes an NMI pending only while VBLANK is 1 (R404), so only in lines 241 to 261. -/
theorem Inv.writeCtrl (h : Inv s) (v : Byte) : Inv (s.setPpu (s.ppu.writeCtrl v)) where
  __ := h
  nmi hn := by
    simp only [State.setPpu_ppu, Ppu.writeCtrl, Bool.or_eq_true, Bool.and_eq_true] at hn
    obtain hold | ⟨-, hv⟩ := hn
    · exact h.nmi hold
    · exact h.vblank hv

theorem Inv.writeScroll (h : Inv s) (v : Byte) : Inv (s.setPpu (s.ppu.writeScroll v)) := by
  unfold Ppu.writeScroll
  split <;> exact { h with }

theorem Inv.writeAddr (h : Inv s) (v : Byte) : Inv (s.setPpu (s.ppu.writeAddr v)) := by
  unfold Ppu.writeAddr
  split <;> exact { h with }

/-! ## The invariant over the latch, P and time -/

/-- While STROBE is 1, CURSOR is 0 (R424, R426). -/
theorem Inv.latchWrite (h : Inv s) (v : Byte) : Inv (latchWrite v s) := by
  unfold Machine.latchWrite
  split
  · exact { h with cursor := Nat.zero_le 8, strobe := fun _ => rfl }
  · exact { h with strobe := nofun }

/-- A flag write other than of B and U leaves those two (R41, R42). -/
theorem Inv.setFlag (h : Inv s) {f : Flag} (hb : f ≠ .b) (hu : f ≠ .u) (b : Bool) : Inv (s.setFlag f b) where
  __ := h
  breakB := by rw [State.flag_setFlag, if_neg hb.symm, h.breakB]
  unusedU := by rw [State.flag_setFlag, if_neg hu.symm, h.unusedU]

/-- A load of all of P clears B and sets U (R44, R294, R323). -/
theorem Inv.loadP (h : Inv s) (v : Byte) : Inv (s.setP (withoutBreak v)) where
  __ := h
  breakB := getLsbD_withoutBreak v .b
  unusedU := getLsbD_withoutBreak v .u

/-- A Tick stores nothing, and leaves the position and what depends on it in range (R413, R414). -/
theorem Inv.tick (h : Inv s) (n : Nat) : Inv (tick n s) := by
  have data := sameData_tick n s
  have timed : (Machine.tick n s).ppu.Timed := timed_ppuTick _ _ ⟨h.inFrame.1, h.vblank, h.nmi⟩
  exact { h with
    chr := data.chr ▸ h.chr
    vram := data.vram ▸ h.vram
    palette := data.palette ▸ h.palette
    oam := data.oam ▸ h.oam
    inFrame := (ppuTick_position _ _ h.inFrame).1
    vblank := timed.vblank
    nmi := timed.nmi }

end invariant

/-! ## The kept predicate -/

/-- Every bus access keeps the invariant: a store lies inside its array, and nothing but a Tick moves the position. -/
theorem keptByBus_inv : KeptByBus Inv where
  draw _ h := { h with }
  status _ h := { h with vblank := nofun }
  increment _ h := { h with }
  readBuf _ _ h := { h with }
  ctrl _ v h := h.writeCtrl v
  mask _ _ h := { h with }
  oamAddr _ _ h := { h with }
  oam s v h := { h with oam := Memory.wf_write h.oam s.ppu.oamAddr.isLt v }
  scroll _ v h := h.writeScroll v
  addr _ v h := h.writeAddr v
  chr _ _ v hi _ h := { h with chr := Memory.wf_write h.chr hi v }
  vram _ _ v hi h := { h with vram := Memory.wf_write h.vram hi v }
  palette _ _ v hi h := { h with palette := Memory.wf_write h.palette hi v }
  cursor _ hlt hs h := { h with cursor := hlt, strobe := fun ht => absurd (hs.symm.trans ht) Bool.false_ne_true }
  latch _ v h := h.latchWrite v
  ram _ _ v hi h := { h with ram := Memory.wf_write h.ram hi v }
  prgRam _ _ v hi h := { h with prgRam := Memory.wf_write h.prgRam hi v }

/-- Every instruction keeps the invariant up to its Tick: of the registers it reads P's B and U alone. -/
theorem kept_inv : Kept Inv where
  toKeptByBus := keptByBus_inv
  setA _ _ h := { h with }
  setX _ _ h := { h with }
  setY _ _ h := { h with }
  setSp _ _ h := { h with }
  setPc _ _ h := { h with }
  setFlag _ _ b hb hu h := h.setFlag hb hu b
  loadP _ v h := h.loadP v

/-! ## Construction -/

theorem prgSizeOf_eq_none_iff {n : Nat} : prgSizeOf n = none ↔ n ≠ 0x4000 ∧ n ≠ 0x8000 := by
  unfold prgSizeOf
  split
  · next h => simp [h]
  · next h => split <;> simp_all

/-- The size of a legal PRG is its length (R52, R96). -/
theorem prgLength_of_prgSizeOf {n : Nat} {size : PrgSize} (h : prgSizeOf n = some size) : prgLength size = n := by
  unfold prgSizeOf at h
  split at h
  · next hn => cases h; exact hn.symm
  · split at h
    · next hn => cases h; exact hn.symm
    · cases h

theorem chrLegal_eq_false_iff (chr : Option (List Byte)) :
    chrLegal chr = false ↔ ∃ l, chr = some l ∧ (l.length = 0 ∨ l.length % 0x2000 ≠ 0) := by
  cases chr with
  | none => simp [chrLegal]
  | some l => simp only [chrLegal, decide_eq_false_iff_not, Option.some.injEq, exists_eq_left']; omega

/-- The machine that `construct` makes of a cartridge with a PRG of a legal size (R70). -/
def constructed (c : Cartridge) (fill : PowerOnFill) (cfg : Config) (size : PrgSize) : State where
  a := 0
  x := 0
  y := 0
  sp := 0
  p := 0
  pc := 0
  run := .needsReset
  ram := Memory.ofBytes 0 (fill.ram.take 0x800)
  prgRam := Memory.ofBytes 0 (fill.prgRam.take 0x2000)
  prg := Memory.ofBytes 0 c.prg
  prgSize := size
  cycles := 0
  strobe := false
  cursor := 0
  buttons := 0x00
  ppu := constructPpu c fill
  config := cfg
  draws := 0
  frameEvent := false
  frameComplete := false

section construction
variable {c : Cartridge} {fill : PowerOnFill} {cfg : Config} {s : State}

/-- What a construction that succeeds has checked and gives (R96, R385). -/
theorem construct_eq_some_iff :
    construct c fill cfg = some s ↔
      ∃ size, prgSizeOf c.prg.length = some size ∧ c.mapper = 0 ∧ chrLegal c.chr = true ∧
        s = constructed c fill cfg size := by
  unfold construct
  cases prgSizeOf c.prg.length with
  | none => simp
  | some size =>
    by_cases h : c.mapper = 0 ∧ chrLegal c.chr = true
    · simp [h, constructed, eq_comm]
    · simp only [if_neg h, reduceCtorEq, Option.some.injEq, exists_eq_left', false_iff]
      exact fun ⟨hm, hc, _⟩ => h ⟨hm, hc⟩

/-- What construction refuses (R96, R385). -/
theorem construct_eq_none_iff :
    construct c fill cfg = none ↔ c.mapper ≠ 0 ∨ prgSizeOf c.prg.length = none ∨ chrLegal c.chr = false := by
  unfold construct
  cases prgSizeOf c.prg.length with
  | none => simp
  | some size => by_cases hm : c.mapper = 0 <;> simp [hm]

/-- The first `n` bytes of a list, as an array (R70; log 2). -/
theorem Memory.read_ofBytes_take {n k : Nat} (l : List Byte) (h : k < n) :
    (Memory.ofBytes 0 (l.take n)).read k = l.getD k 0 := by
  have := Memory.read_ofBytes (l.take n) 0 k
  rw [Nat.zero_add, List.getElem?_take_of_lt h] at this
  rw [this, List.getD_eq_getElem?_getD]
  rfl

/-- No status flag is set at construction (R61, R70). -/
theorem status_constructPpu (c : Cartridge) (fill : PowerOnFill) : (constructPpu c fill).status = 0x00 :=
  show (0 : Byte) ||| 0 ||| 0 = 0 by decide

theorem Memory.wf_ofBytes_take (l : List Byte) (n : Nat) : (Memory.ofBytes 0 (l.take n)).wf n :=
  Memory.wf_ofBytes (l.length_take_le n)

/-- Construction followed by `reset()` and the host's buttons (R70, R425, R450). -/
theorem inv_setButtons_hostReset (h : construct c fill cfg = some s) (mask : Byte) :
    Inv (setButtons mask (hostReset s)) := by
  obtain ⟨size, hsize, -, -, rfl⟩ := construct_eq_some_iff.1 h
  rw [hostReset_eq]
  exact {
    ram := Memory.wf_ofBytes_take _ _
    prgRam := Memory.wf_ofBytes_take _ _
    prg := Memory.wf_ofBytes (prgLength_of_prgSizeOf hsize).ge
    chr := Memory.wf_ofBytes_take _ _
    vram := Memory.wf_ofBytes_take _ _
    palette := Memory.wf_ofBytes_take _ _
    oam := Memory.wf_ofBytes_take _ _
    inFrame := ⟨Nat.zero_lt_succ _, Nat.zero_lt_succ _⟩
    vblank := nofun
    nmi := nofun
    cursor := Nat.zero_le 8
    strobe := nofun
    breakB := show (0x24 : Byte).getLsbD 4 = false by decide
    unusedU := show (0x24 : Byte).getLsbD 5 = true by decide }

end construction

end Sys2Proof.Machine

namespace Sys2Proof.Proofs.StateInvariant
open Sys2Proof.Machine

/-- Settles O10: the invariant is a kept predicate, which the report, the NMI poll, the Tick and a write of RUN keep
too. -/
theorem stepKeepsInv : Obligations.StepKeepsInv := fun _ h =>
  kept_inv.step_keeps (fun _ h => { h with }) (fun _ h => { h with nmi := nofun }) (fun n _ h => h.tick n)
    (fun _ _ h => { h with }) h

/-- Settles O7: the refusals are those of `construct_eq_none_iff`, and the values are those of `constructed`. -/
theorem constructionValues : Obligations.ConstructionValues := by
  refine ⟨fun c fill cfg => ?_, fun c fill cfg s h => ?_⟩
  · rw [construct_eq_none_iff, prgSizeOf_eq_none_iff, chrLegal_eq_false_iff]
  · obtain ⟨size, hsize, -, -, rfl⟩ := construct_eq_some_iff.1 h
    have hprg := prgLength_of_prgSizeOf hsize
    have hread {n : Nat} (l : List Byte) (k : Nat) (hk : k < n) := Memory.read_ofBytes_take l hk
    refine ⟨rfl, rfl, rfl, rfl, rfl, rfl, rfl, rfl, status_constructPpu c fill, rfl, rfl, rfl, rfl, rfl, rfl, rfl,
      rfl, rfl, rfl, rfl, hprg, fun k hk => ?_, hread _, hread _, hread _, hread _, hread _, hread _⟩
    have := Memory.read_ofBytes_take c.prg hk
    rwa [List.take_length] at this

/-- Settles O9. -/
theorem invAfterConstruction : Obligations.InvAfterConstruction := fun _ _ _ _ mask h =>
  inv_setButtons_hostReset h mask

/-- Settles O8: `State.reset` is the blank cartridge constructed and reset, with no button held. -/
theorem invAtReset : Obligations.InvAtReset := by
  obtain ⟨s, hs, hreset⟩ := Option.map_eq_some_iff.1 reset_eq_hostReset
  have := inv_setButtons_hostReset hs 0x00
  rwa [hreset] at this

/-- Settles O19: the step's three ways of not running, with the fault of each kind written out. -/
theorem stepNotRunning : Obligations.StepNotRunning := fun _ =>
  ⟨step_halted, step_needsReset, step_faulted, fun _ _ => step_faulted, fun _ _ => step_faulted,
    fun _ => step_faulted⟩

end Sys2Proof.Proofs.StateInvariant
end

section
/-! SPRITE0_HIT and OVERFLOW over a tick, and the position (O12, O14): what leaving one line does to the two bits, and
one induction over R414's loop for both of the claims that go through it. -/

namespace Sys2Proof.Machine

/-! ## One line -/

/-- Leaving a line does what the rule says for it, and then the wrap clears SPRITE0_HIT (R61, R414, R415). -/
theorem ppuLine_sprite (r : SpriteEval) (p : Ppu) :
    (ppuLine r p).1.sprite0Hit = (decide (p.scanline ≠ 261) && (p.sprite0Hit || (p.spriteAction r).hit)) ∧
      (ppuLine r p).1.overflow = (p.spriteAction r).overflow.getD p.overflow := by
  simp only [ppuLine, Ppu.enterLine, Ppu.wrapFrame, spriteEval]
  by_cases hv : p.scanline = 240
  · simp [hv]
  · by_cases hw : p.scanline = 261 <;> simp [hv, hw]

/-- The default `SPRITE_EVAL` (R415): it sets SPRITE0_HIT in the line of OAM[0] while SHOW_SPRITES is 1, and never
writes OVERFLOW. -/
theorem spriteAction_standard (p : Ppu) :
    p.spriteAction .standard = ⟨p.mask.getLsbD 4 && decide ((p.oam.read 0).toNat = p.scanline), none⟩ := by
  have hm : p.holds (.bit .mask 4) = p.mask.getLsbD 4 := rfl
  have ho : p.holds (.eq (.oam 0) .scanline) = decide ((p.oam.read 0).toNat = p.scanline) := rfl
  simp only [SpriteEval.standard, Ppu.spriteAction, hm, ho]
  cases p.mask.getLsbD 4 <;> cases decide ((p.oam.read 0).toNat = p.scanline) <;> rfl

/-! ## The loop -/

/-- R414's loop stops where DOT is inside a line. -/
theorem ppuLines_of_dot_lt (r : SpriteEval) (n : Nat) {p : Ppu} (h : p.dot < 341) : ppuLines r n p = (p, false) := by
  cases n with
  | zero => rfl
  | succ n => rw [ppuLines, if_pos h]

/-- One round of R414's loop, where a line is left. -/
theorem ppuLines_succ (r : SpriteEval) (n : Nat) {p : Ppu} (h : 341 ≤ p.dot) :
    (ppuLines r (n + 1) p).1 = (ppuLines r n (ppuLine r p).1).1 := by
  rw [ppuLines, if_neg (by omega)]

/-- A relation of a PPU to what R414's loop leaves of it holds when it holds where the loop stops, and from a line to
the next. -/
theorem ppuLines_induction {r : SpriteEval} {R : Ppu → Ppu → Prop} (stop : ∀ p, p.dot < 341 → R p p)
    (line : ∀ p q, 341 ≤ p.dot → R (ppuLine r p).1 q → R p q) (n : Nat) {p : Ppu} (hn : p.dot / 341 ≤ n) :
    R p (ppuLines r n p).1 := by
  induction n generalizing p with
  | zero => exact stop p (by omega)
  | succ n ih =>
    by_cases h : p.dot < 341
    · rw [ppuLines_of_dot_lt r _ h]
      exact stop p h
    · have hdot := (ppuLine_facts r p).1
      rw [ppuLines_succ r n (by omega)]
      exact line p _ (by omega) (ih (by omega))

/-- The position after a line, which the wrap takes back by a frame (R413, R414). -/
theorem ppuLine_position (r : SpriteEval) {p : Ppu} (h : 341 ≤ p.dot) :
    (p.scanline ≠ 261 → (ppuLine r p).1.scanline = p.scanline + 1 ∧ (ppuLine r p).1.position = p.position) ∧
      (p.scanline = 261 →
        (ppuLine r p).1.scanline = 0 ∧ (ppuLine r p).1.position + frameDots = p.position) := by
  obtain ⟨hdot, hline, -⟩ := ppuLine_facts r p
  simp only [Ppu.position, frameDots, hdot, hline]
  constructor
  · intro hp
    rw [if_neg (by omega)]
    omega
  · intro hp
    rw [if_pos (by omega)]
    omega

/-! ## What the loop does to SPRITE0_HIT and OVERFLOW -/

/-- What the default rule leaves in `q` of a PPU `p` that the loop starts from: OVERFLOW, and SPRITE0_HIT by the lines
left since the last wrap. -/
def StandardSprite (p q : Ppu) : Prop :=
  p.scanline < 262 → q.InFrame → q.position = p.position % frameDots →
    q.overflow = p.overflow ∧
    (p.position < frameDots → q.sprite0Hit = (p.sprite0Hit ||
      (p.mask.getLsbD 4 && decide (p.scanline ≤ (p.oam.read 0).toNat ∧ (p.oam.read 0).toNat < q.scanline)))) ∧
    (frameDots ≤ p.position → q.sprite0Hit = (p.mask.getLsbD 4 && decide ((p.oam.read 0).toNat < q.scanline)))

theorem standardSprite_stop (p : Ppu) (h : p.dot < 341) : StandardSprite p p := by
  intro hline _ _
  have hpos : p.position < frameDots := by simp only [Ppu.position, frameDots]; omega
  refine ⟨rfl, fun _ => ?_, fun hge => by omega⟩
  rw [decide_eq_false (by omega), Bool.and_false, Bool.or_false]

theorem standardSprite_line (p q : Ppu) (h : 341 ≤ p.dot) (ih : StandardSprite (ppuLine .standard p).1 q) :
    StandardSprite p q := by
  intro hline hq hpos
  have data := sameData_ppuLine .standard p
  obtain ⟨hhit, hover⟩ := ppuLine_sprite .standard p
  obtain ⟨hplain, hwrap⟩ := ppuLine_position .standard h
  rw [spriteAction_standard] at hhit hover
  unfold StandardSprite at ih
  rw [data.mask, data.oam, hover, hhit] at ih
  have hqpos : q.position = 341 * q.scanline + q.dot := rfl
  have hppos : p.position = 341 * p.scanline + p.dot := rfl
  have hqdot := hq.2
  by_cases hlast : p.scanline = 261
  · obtain ⟨hnext, hback⟩ := hwrap hlast
    rw [hnext] at ih
    obtain ⟨hv, hin, hafter⟩ := ih (by omega) hq (by rw [hpos, ← hback, Nat.add_mod_right])
    refine ⟨hv, fun hlt => by omega, fun _ => ?_⟩
    by_cases hframe : (ppuLine .standard p).1.position < frameDots
    · simpa [hlast] using hin hframe
    · exact hafter (by omega)
  · obtain ⟨hnext, hsame⟩ := hplain hlast
    rw [hnext, hsame] at ih
    obtain ⟨hv, hin, hafter⟩ := ih (by omega) hq hpos
    refine ⟨hv, fun hlt => ?_, hafter⟩
    have hleft : p.scanline < q.scanline := by
      rw [Nat.mod_eq_of_lt hlt] at hpos
      omega
    rw [hin hlt, decide_eq_true hlast, Bool.true_and, Bool.or_assoc, ← Bool.and_or_distrib_left, ← Bool.decide_or]
    congr 3
    simp only [eq_iff_iff]
    omega

/-- Nothing but a wrap clears SPRITE0_HIT: what the loop leaves in `q` of a PPU `p`, under every rule. -/
def HitStays (p q : Ppu) : Prop := p.position < frameDots → p.sprite0Hit = true → q.sprite0Hit = true

theorem hitStays_line (r : SpriteEval) (p q : Ppu) (h : 341 ≤ p.dot) (ih : HitStays (ppuLine r p).1 q) :
    HitStays p q := by
  intro hlt hhit
  have hlast : p.scanline ≠ 261 := fun hl => by simp only [Ppu.position, frameDots] at hlt; omega
  obtain ⟨-, hsame⟩ := (ppuLine_position r h).1 hlast
  refine ih (hsame ▸ hlt) ?_
  rw [(ppuLine_sprite r p).1, decide_eq_true hlast, hhit]
  rfl

/-! ## PpuTick -/

theorem position_add_dot (p : Ppu) (n : Nat) : ({ p with dot := p.dot + n } : Ppu).position = p.position + n :=
  (Nat.add_assoc _ _ _).symm

/-- A tick that leaves no line moves DOT alone. -/
theorem ppuTick_of_no_line (r : SpriteEval) {n : Nat} {p : Ppu} (h : p.dot + n < 341) :
    (ppuTick r n p).1 = { p with dot := p.dot + n } := by
  unfold ppuTick
  rw [ppuLines_of_dot_lt r _ h]

/-- A tick that leaves one line is that line's end. -/
theorem ppuTick_of_one_line (r : SpriteEval) {n : Nat} {p : Ppu} (h : 341 ≤ p.dot + n) (h' : p.dot + n < 682) :
    (ppuTick r n p).1 = (ppuLine r { p with dot := p.dot + n }).1 := by
  have hone : (p.dot + n) / 341 = 1 := by omega
  simp only [ppuTick, hone]
  rw [ppuLines_succ r 0 h]
  rfl

theorem ppuTick_standardSprite (n : Nat) (p : Ppu) :
    StandardSprite { p with dot := p.dot + n } (ppuTick .standard n p).1 :=
  ppuLines_induction standardSprite_stop standardSprite_line _ (Nat.le_refl _)

theorem ppuTick_hitStays (r : SpriteEval) (n : Nat) (p : Ppu) :
    HitStays { p with dot := p.dot + n } (ppuTick r n p).1 :=
  ppuLines_induction (fun _ _ _ hhit => hhit) (hitStays_line r) _ (Nat.le_refl _)

end Sys2Proof.Machine

namespace Sys2Proof.Proofs.TickState
open Sys2Proof.Machine

/-- Settles O12. -/
theorem tickMovesPosition : Obligations.TickMovesPosition := fun rule n p =>
  ⟨ppuTick_position rule n, sameData_ppuTick rule n p⟩

/-- Settles O14: under the default rule by `StandardSprite`; under every rule by the end of the one line that is left,
and by `HitStays`. -/
theorem tickSpriteZero : Obligations.TickSpriteZero := by
  refine ⟨fun n p hp => ?_, fun rule n p hp => ?_⟩
  · obtain ⟨hin, hpos⟩ := ppuTick_position .standard n hp
    have key := ppuTick_standardSprite n p hp.1 hin (by rw [hpos, position_add_dot])
    rwa [position_add_dot] at key
  · refine ⟨fun hnone => ?_, fun ⟨hline, hone⟩ => ?_, ?_⟩
    · rw [ppuTick_of_no_line rule hnone]
      exact ⟨rfl, rfl⟩
    · rw [ppuTick_of_one_line rule hline hone]
      exact ppuLine_sprite rule _
    · have key := ppuTick_hitStays rule n p
      rwa [HitStays, position_add_dot] at key

end Sys2Proof.Proofs.TickState
end

section
/-! What an instruction leaves of the CPU's registers and flags (O24, O25): one frame relation over both, said once for
each class of instruction and then of each instruction. -/

namespace Sys2Proof.Machine

theorem resolveIndirect_cpu {p a : Addr} {s t : State} (h : resolveIndirect p s = .ok a t) : SameCpu s t :=
  ((keptByBus_sameCpu s).resolveIndirect p (.rfl' s)).of_ok h

/-- `t` differs from `s` in no register and no flag but those that the instruction writes (R31 to R34, R37 to R43). -/
structure CpuFrame (i : Instr) (s t : State) : Prop where
  a    : i.writesA = false → t.a = s.a
  x    : i.writesX = false → t.x = s.x
  y    : i.writesY = false → t.y = s.y
  sp   : i.writesSp = false → t.sp = s.sp
  flag : ∀ f, i.writesFlag f = false → t.flag f = s.flag f

namespace CpuFrame
variable {i : Instr} {s t u : State}

/-! ## What keeps the frame -/

theorem refl (i : Instr) (s : State) : CpuFrame i s s :=
  ⟨fun _ => rfl, fun _ => rfl, fun _ => rfl, fun _ => rfl, fun _ _ => rfl⟩

theorem trans (h : CpuFrame i s t) (k : CpuFrame i t u) : CpuFrame i s u where
  a hw := (k.a hw).trans (h.a hw)
  x hw := (k.x hw).trans (h.x hw)
  y hw := (k.y hw).trans (h.y hw)
  sp hw := (k.sp hw).trans (h.sp hw)
  flag f hw := (k.flag f hw).trans (h.flag f hw)

/-- A bus access writes no register and no flag. -/
theorem of_sameCpu (i : Instr) (h : SameCpu s t) : CpuFrame i s t :=
  ⟨fun _ => h.a, fun _ => h.x, fun _ => h.y, fun _ => h.sp, fun f _ => h.flag f⟩

theorem setA (h : CpuFrame i s t) (v : Byte) (hw : i.writesA = true) : CpuFrame i s (t.setA v) where
  __ := h
  a hn := Bool.noConfusion (hw.symm.trans hn)

theorem setX (h : CpuFrame i s t) (v : Byte) (hw : i.writesX = true) : CpuFrame i s (t.setX v) where
  __ := h
  x hn := Bool.noConfusion (hw.symm.trans hn)

theorem setY (h : CpuFrame i s t) (v : Byte) (hw : i.writesY = true) : CpuFrame i s (t.setY v) where
  __ := h
  y hn := Bool.noConfusion (hw.symm.trans hn)

theorem setSp (h : CpuFrame i s t) (v : Byte) (hw : i.writesSp = true) : CpuFrame i s (t.setSp v) where
  __ := h
  sp hn := Bool.noConfusion (hw.symm.trans hn)

theorem setRam (h : CpuFrame i s t) (m : Memory) : CpuFrame i s (t.setRam m) := { h with }

/-- A load of all of P, by an instruction that writes every flag. -/
theorem setP (h : CpuFrame i s t) (v : Byte) (hw : ∀ f, i.writesFlag f = true) : CpuFrame i s (t.setP v) where
  __ := h
  flag f hn := Bool.noConfusion ((hw f).symm.trans hn)

theorem setFlag (h : CpuFrame i s t) (f : Flag) (b : Bool) (hw : i.writesFlag f = true) :
    CpuFrame i s (t.setFlag f b) where
  __ := h
  flag g hn := by
    have hne : g ≠ f := fun he => Bool.noConfusion (hw.symm.trans (he ▸ hn))
    rw [State.flag_setFlag, if_neg hne, h.flag g hn]

theorem setZN (h : CpuFrame i s t) (v : Byte) (hw : i.writesZN = true) : CpuFrame i s (t.setZN v) :=
  (h.setFlag .z _ hw).setFlag .n _ hw

theorem addCore (h : CpuFrame i s t) (k : Byte) (ha : i.writesA = true) (hc : i.writesFlag .c = true)
    (hv : i.writesFlag .v = true) (hzn : i.writesZN = true) : CpuFrame i s (addCore k t) :=
  (((h.setFlag .c _ hc).setFlag .v _ hv).setA _ ha).setZN _ hzn

theorem compareCore (h : CpuFrame i s t) (r k : Byte) (hc : i.writesFlag .c = true) (hzn : i.writesZN = true) :
    CpuFrame i s (compareCore r k t) :=
  ((h.setFlag .c _ hc).setFlag .z _ hzn).setFlag .n _ hzn

theorem bitCore (h : CpuFrame i s t) (m : Byte) (hv : i.writesFlag .v = true) (hzn : i.writesZN = true) :
    CpuFrame i s (bitCore m t) :=
  ((h.setFlag .z _ hzn).setFlag .n _ hzn).setFlag .v _ hv

/-! ## The end of an instruction, and the classes -/

/-- The load of PC and the Tick write no register and no flag of the frame. -/
theorem finish {next : Addr} {n : Nat} (h : CpuFrame i s u) (hn : finish next n u = .next t) : CpuFrame i s t := by
  cases hn
  exact { h with }

theorem advance {op : Op} {m : Mode} {c : Bool} {extra : Nat} (h : CpuFrame i s u)
    (hn : advance op m c extra u = .next t) : CpuFrame i s t :=
  h.finish hn

theorem readClass {op : Op} {o : Source} {effect : Byte → State → State} (hn : readClass op o effect s = .next t)
    (he : ∀ v u, CpuFrame i u (effect v u)) : CpuFrame i s t := by
  obtain ⟨v, c, u, hr, rfl⟩ := readClass_next hn
  exact { (of_sameCpu i (readSource_cpu hr)).trans (he v u) with }

theorem writeClass {op : Op} {m : MemOperand} {value : State → Byte} (hn : writeClass op m value s = .next t) :
    CpuFrame i s t := by
  obtain ⟨e, stall, u, -, hw, rfl⟩ := writeClass_next hn
  exact { of_sameCpu i (busWrite_cpu hw) with }

theorem rmwClass {op : Op} {m : MemOperand} {modify : Byte → State → Byte × State} {after : Byte → State → State}
    (hn : rmwClass op m modify after s = .next t) (hm : ∀ v u, CpuFrame i u (modify v u).2)
    (ha : ∀ v u, CpuFrame i u (after v u)) : CpuFrame i s t := by
  obtain ⟨e, v, w, stall, u, -, hv, hw, rfl⟩ := rmwClass_next hn
  have hread := (of_sameCpu i (busRead_cpu hv)).trans (hm v w)
  have hwrite := (of_sameCpu i (busWrite_cpu hw)).trans (ha (modify v w).1 u)
  exact { hread.trans hwrite with }

theorem impliedClass {op : Op} {effect : State → State} (hn : impliedClass op effect s = .next t)
    (he : CpuFrame i s (effect s)) : CpuFrame i s t :=
  he.advance hn

/-- A shift writes C, Z and N, and A where that is its operand. -/
theorem shiftClass {op : Op} {o : ShiftOperand} {core : Byte → State → Byte × State}
    (hn : shiftClass op o core s = .next t) (hm : ∀ v u, CpuFrame i u (core v u).2) (ha : o = .acc → i.writesA = true)
    (hzn : i.writesZN = true) : CpuFrame i s t := by
  cases o with
  | acc => exact (((hm _ s).setA _ (ha rfl)).setZN _ hzn).advance hn
  | mem m => exact rmwClass (after := fun r t => t.setZN r) hn hm fun v u => (refl i u).setZN v hzn

theorem branch {op : Op} {cond : State → Bool} {d : Byte} (hn : branch op cond d s = .next t) : CpuFrame i s t := by
  unfold Machine.branch at hn
  simp only at hn
  split at hn
  · exact (refl i s).finish hn
  · exact (refl i s).finish hn

end CpuFrame

/-- Every instruction keeps the frame of R31 to R34 and R37 to R43. -/
theorem exec_cpuFrame {i : Instr} {s t : State} (h : exec i s = .next t) : CpuFrame i s t := by
  have r : ∀ u, CpuFrame i u u := CpuFrame.refl i
  cases i with
  | lda o =>
    simp only [exec, execLda] at h
    exact .readClass h fun v u => ((r u).setA v rfl).setZN v rfl
  | ldx o =>
    simp only [exec, execLdx] at h
    exact .readClass h fun v u => ((r u).setX v rfl).setZN v rfl
  | ldy o =>
    simp only [exec, execLdy] at h
    exact .readClass h fun v u => ((r u).setY v rfl).setZN v rfl
  | sta m => exact .writeClass h
  | stx m => exact .writeClass h
  | sty m => exact .writeClass h
  | tax =>
    simp only [exec, execTax] at h
    exact .impliedClass h (((r s).setX _ rfl).setZN _ rfl)
  | tay =>
    simp only [exec, execTay] at h
    exact .impliedClass h (((r s).setY _ rfl).setZN _ rfl)
  | txa =>
    simp only [exec, execTxa] at h
    exact .impliedClass h (((r s).setA _ rfl).setZN _ rfl)
  | tya =>
    simp only [exec, execTya] at h
    exact .impliedClass h (((r s).setA _ rfl).setZN _ rfl)
  | tsx =>
    simp only [exec, execTsx] at h
    exact .impliedClass h (((r s).setX _ rfl).setZN _ rfl)
  | txs =>
    simp only [exec, execTxs] at h
    exact .impliedClass h ((r s).setSp _ rfl)
  | adc o =>
    simp only [exec, execAdc] at h
    exact .readClass h fun v u => (r u).addCore v rfl rfl rfl rfl
  | sbc o =>
    simp only [exec, execSbc] at h
    exact .readClass h fun v u => (r u).addCore _ rfl rfl rfl rfl
  | and o =>
    simp only [exec, execAnd] at h
    exact .readClass h fun v u => ((r u).setA _ rfl).setZN _ rfl
  | ora o =>
    simp only [exec, execOra] at h
    exact .readClass h fun v u => ((r u).setA _ rfl).setZN _ rfl
  | eor o =>
    simp only [exec, execEor] at h
    exact .readClass h fun v u => ((r u).setA _ rfl).setZN _ rfl
  | cmp o =>
    simp only [exec, execCmp] at h
    exact .readClass h fun v u => (r u).compareCore _ v rfl rfl
  | cpx o =>
    simp only [exec, execCpx] at h
    exact .readClass h fun v u => (r u).compareCore _ v rfl rfl
  | cpy o =>
    simp only [exec, execCpy] at h
    exact .readClass h fun v u => (r u).compareCore _ v rfl rfl
  | bit m =>
    simp only [exec, execBit] at h
    exact .readClass h fun v u => (r u).bitCore v rfl rfl
  | inc m =>
    simp only [exec, execInc] at h
    exact .rmwClass h (fun _ u => r u) fun v u => (r u).setZN v rfl
  | dec m =>
    simp only [exec, execDec] at h
    exact .rmwClass h (fun _ u => r u) fun v u => (r u).setZN v rfl
  | inx =>
    simp only [exec, execInx] at h
    exact .impliedClass h (((r s).setX _ rfl).setZN _ rfl)
  | iny =>
    simp only [exec, execIny] at h
    exact .impliedClass h (((r s).setY _ rfl).setZN _ rfl)
  | dex =>
    simp only [exec, execDex] at h
    exact .impliedClass h (((r s).setX _ rfl).setZN _ rfl)
  | dey =>
    simp only [exec, execDey] at h
    exact .impliedClass h (((r s).setY _ rfl).setZN _ rfl)
  | asl o =>
    simp only [exec, execAsl] at h
    exact .shiftClass h (fun _ u => (r u).setFlag .c _ rfl) (by rintro rfl; rfl) rfl
  | lsr o =>
    simp only [exec, execLsr] at h
    exact .shiftClass h (fun _ u => (r u).setFlag .c _ rfl) (by rintro rfl; rfl) rfl
  | rol o =>
    simp only [exec, execRol] at h
    exact .shiftClass h (fun _ u => (r u).setFlag .c _ rfl) (by rintro rfl; rfl) rfl
  | ror o =>
    simp only [exec, execRor] at h
    exact .shiftClass h (fun _ u => (r u).setFlag .c _ rfl) (by rintro rfl; rfl) rfl
  | jmp a => exact (r s).finish h
  | jmpInd p =>
    simp only [exec, execJmpInd] at h
    obtain ⟨a, u, hu, hn⟩ := Access.andThen_eq_next.1 h
    exact (CpuFrame.of_sameCpu _ (resolveIndirect_cpu hu)).finish hn
  | jsr a =>
    simp only [exec, execJsr, push16_eq, Access.andThen_ok] at h
    exact (((r s).setRam _).setSp _ rfl).finish h
  | rts =>
    simp only [exec, execRts, pull16_eq, Access.andThen_ok] at h
    exact ((r s).setSp _ rfl).finish h
  | rti =>
    simp only [exec, execRti, pullFrame_eq, Access.andThen_ok] at h
    exact (((r s).setP _ fun f => by cases f <;> rfl).setSp _ rfl).finish h
  | bpl d =>
    simp only [exec, execBpl] at h
    exact .branch h
  | bmi d =>
    simp only [exec, execBmi] at h
    exact .branch h
  | bvc d =>
    simp only [exec, execBvc] at h
    exact .branch h
  | bvs d =>
    simp only [exec, execBvs] at h
    exact .branch h
  | bcc d =>
    simp only [exec, execBcc] at h
    exact .branch h
  | bcs d =>
    simp only [exec, execBcs] at h
    exact .branch h
  | bne d =>
    simp only [exec, execBne] at h
    exact .branch h
  | beq d =>
    simp only [exec, execBeq] at h
    exact .branch h
  | brk => cases h; exact { r s with }
  | nop =>
    simp only [exec, execNop] at h
    exact .impliedClass h (r s)
  | pha =>
    simp only [exec, execPha, push_eq, Access.andThen_ok] at h
    exact (((r s).setRam _).setSp _ rfl).advance h
  | pla =>
    simp only [exec, execPla, pull_eq, Access.andThen_ok] at h
    exact ((((r s).setSp _ rfl).setA _ rfl).setZN _ rfl).advance h
  | php =>
    simp only [exec, execPhp, push_eq, Access.andThen_ok] at h
    exact (((r s).setRam _).setSp _ rfl).advance h
  | plp =>
    simp only [exec, execPlp, pull_eq, Access.andThen_ok] at h
    exact (((r s).setSp _ rfl).setP _ fun f => by cases f <;> rfl).advance h
  | clc =>
    simp only [exec, execClc] at h
    exact .impliedClass h ((r s).setFlag .c _ rfl)
  | sec =>
    simp only [exec, execSec] at h
    exact .impliedClass h ((r s).setFlag .c _ rfl)
  | cli =>
    simp only [exec, execCli] at h
    exact .impliedClass h ((r s).setFlag .i _ rfl)
  | sei =>
    simp only [exec, execSei] at h
    exact .impliedClass h ((r s).setFlag .i _ rfl)
  | cld =>
    simp only [exec, execCld] at h
    exact .impliedClass h ((r s).setFlag .d _ rfl)
  | sed =>
    simp only [exec, execSed] at h
    exact .impliedClass h ((r s).setFlag .d _ rfl)
  | clv =>
    simp only [exec, execClv] at h
    exact .impliedClass h ((r s).setFlag .v _ rfl)
  | lax m =>
    simp only [exec, execLax] at h
    exact .readClass h fun v u => (((r u).setA v rfl).setX v rfl).setZN v rfl
  | sax m =>
    simp only [exec, execSax] at h
    exact .writeClass h
  | slo m =>
    simp only [exec, execSlo] at h
    exact .rmwClass h (fun _ u => (r u).setFlag .c _ rfl) fun _ u => ((r u).setA _ rfl).setZN _ rfl
  | rla m =>
    simp only [exec, execRla] at h
    exact .rmwClass h (fun _ u => (r u).setFlag .c _ rfl) fun _ u => ((r u).setA _ rfl).setZN _ rfl
  | sre m =>
    simp only [exec, execSre] at h
    exact .rmwClass h (fun _ u => (r u).setFlag .c _ rfl) fun _ u => ((r u).setA _ rfl).setZN _ rfl
  | rra m =>
    simp only [exec, execRra] at h
    exact .rmwClass h (fun _ u => (r u).setFlag .c _ rfl) fun v u => (r u).addCore v rfl rfl rfl rfl
  | dcp m =>
    simp only [exec, execDcp] at h
    exact .rmwClass h (fun _ u => r u) fun v u => (r u).compareCore _ v rfl rfl
  | isb m =>
    simp only [exec, execIsb] at h
    exact .rmwClass h (fun _ u => r u) fun _ u => (r u).addCore _ rfl rfl rfl rfl
  | nopUndoc k o =>
    simp only [exec, execNopUndoc] at h
    cases o with
    | implied => exact .impliedClass h (r s)
    | read o => exact .readClass h fun _ u => r u
  | sbcUndoc v =>
    simp only [exec, execSbcUndoc] at h
    exact .readClass h fun _ u => (r u).addCore _ rfl rfl rfl rfl
  | undefined k => cases h

end Sys2Proof.Machine

namespace Sys2Proof.Proofs.RegisterFrame
open Sys2Proof.Machine

/-- Settles O24: the registers of `CpuFrame`. -/
theorem registersWrittenOnlyBy : Obligations.RegistersWrittenOnlyBy := fun _ _ _ h =>
  have frame := exec_cpuFrame h
  ⟨frame.a, frame.x, frame.y, frame.sp⟩

/-- Settles O25: the flags of `CpuFrame`. -/
theorem flagsWrittenOnlyBy : Obligations.FlagsWrittenOnlyBy := fun _ _ _ f h => (exec_cpuFrame h).flag f

end Sys2Proof.Proofs.RegisterFrame
end

section
/-! ADC and SBC in integers (O36): what `AddCore` leaves of C, Z, V and N, and the subtraction that it makes of the
complemented byte. -/

namespace Sys2Proof.Machine

/-! ## Carry and overflow as integers -/

theorem carryIn_lt (p : Byte) : carryIn p < 2 := Nat.mod_lt _ (by decide)

theorem carryIn_eq_toNat (p : Byte) : carryIn p = (p.getLsbD Flag.c.bit).toNat := by
  show p.toNat % 2 = (p.toNat.testBit 0).toNat
  rw [Nat.toNat_testBit, Nat.pow_zero, Nat.div_one]

theorem toNat_addByte (a k : Byte) (c : Nat) : (addByte a k c).toNat = (a.toNat + k.toNat + c) % 256 := by
  rw [addByte, BitVec.toNat_ofNat]

/-- The complement, as SBC uses it: `255 − m` unsigned, and `−m − 1` signed (R241). -/
theorem toNat_not_add (m : Byte) : (~~~m).toNat + m.toNat = 255 := by
  have := m.isLt
  rw [BitVec.toNat_not]
  omega

theorem toInt_not (m : Byte) : (~~~m).toInt = -1 - m.toInt := by
  have := toNat_not_add m
  rw [BitVec.toInt_eq_toNat_cond, BitVec.toInt_eq_toNat_cond]
  split <;> split <;> omega

/-- Like-signed operands with a result of the other sign are a signed sum out of range (R240). -/
theorem overflow_iff (a k : Byte) {c : Nat} (hc : c < 2) :
    (a.msb == k.msb && (addByte a k c).msb != a.msb) = true ↔
      a.toInt + k.toInt + c < -128 ∨ 127 < a.toInt + k.toInt + c := by
  have ha := a.isLt
  have hk := k.isLt
  rw [BitVec.toInt_eq_toNat_cond, BitVec.toInt_eq_toNat_cond]
  simp only [BitVec.msb_eq_decide, toNat_addByte, Bool.and_eq_true, beq_iff_eq, bne_iff_ne, decide_eq_decide, ne_eq]
  split <;> split <;> omega

/-! ## P after AddCore -/

section addBits
variable (p a k : Byte)

theorem addBits_c : (addBits p a k).getLsbD Flag.c.bit = decide (0xFF < a.toNat + k.toNat + carryIn p) := by
  simp [addBits, flag_znBits, flag_cvBits]

theorem addBits_v : (addBits p a k).getLsbD Flag.v.bit =
    (a.msb == k.msb && (addByte a k (carryIn p)).msb != a.msb) := by
  simp [addBits, flag_znBits, flag_cvBits]

theorem addBits_z : (addBits p a k).getLsbD Flag.z.bit = decide (addByte a k (carryIn p) = 0) := by
  simp [addBits, flag_znBits]

theorem addBits_n : (addBits p a k).getLsbD Flag.n.bit = (addByte a k (carryIn p)).msb := by
  simp [addBits, flag_znBits]

/-- The sum byte and the carry out are the 9-bit sum (R240). -/
theorem addByte_add_carry :
    (addByte a k (carryIn p)).toNat + 256 * carryIn (addBits p a k) = a.toNat + k.toNat + carryIn p := by
  have := a.isLt
  have := k.isLt
  have := carryIn_lt p
  rw [carryIn_eq_toNat (addBits p a k), addBits_c, toNat_addByte]
  by_cases h : 0xFF < a.toNat + k.toNat + carryIn p
  · rw [decide_eq_true h, Bool.toNat_true]
    omega
  · rw [decide_eq_false h, Bool.toNat_false]
    omega

end addBits

/-! ## The instructions -/

section instructions
variable {o : Source} {s u t : State} {v : Byte} {crossed : Bool}

/-- A completed read-class instruction with `AddCore` of a byte leaves that byte's sum in A and P. -/
theorem readClass_addCore {op : Op} {k : Byte → Byte} (hr : readSource o s = .ok (v, crossed) u)
    (h : readClass op o (fun m t => addCore (k m) t) s = .next t) :
    t.a = addByte u.a (k v) (carryIn u.p) ∧ t.p = addBits u.p u.a (k v) := by
  rw [readClass_ok hr, addCore_eq] at h
  cases h
  exact ⟨rfl, rfl⟩

theorem execAdc_arithmetic (hr : readSource o s = .ok (v, crossed) u) (h : execAdc o s = .next t) :
    t.a.toNat + 256 * carryIn t.p = u.a.toNat + v.toNat + carryIn u.p ∧
      (t.flag .v = true ↔ u.a.toInt + v.toInt + carryIn u.p < -128 ∨ 127 < u.a.toInt + v.toInt + carryIn u.p) ∧
      t.flag .z = decide (t.a = 0) ∧ t.flag .n = t.a.msb := by
  obtain ⟨ha, hp⟩ := readClass_addCore (k := id) hr h
  simp only [State.flag, ha, hp, id]
  exact ⟨addByte_add_carry .., by rw [addBits_v, overflow_iff _ _ (carryIn_lt _)], addBits_z .., addBits_n ..⟩

theorem execSbc_arithmetic (hr : readSource o s = .ok (v, crossed) u) (h : execSbc o s = .next t) :
    (t.a.toNat : Int) = (u.a.toNat - v.toNat - (1 - carryIn u.p)) % 256 ∧
      (t.flag .c = true ↔ (0 : Int) ≤ u.a.toNat - v.toNat - (1 - carryIn u.p)) ∧
      (t.flag .v = true ↔
        u.a.toInt - v.toInt - (1 - carryIn u.p) < -128 ∨ 127 < u.a.toInt - v.toInt - (1 - carryIn u.p)) ∧
      t.flag .z = decide (t.a = 0) ∧ t.flag .n = t.a.msb := by
  obtain ⟨ha, hp⟩ := readClass_addCore (k := (~~~·)) hr h
  have hnot := toNat_not_add v
  have hint := toInt_not v
  simp only [State.flag, ha, hp]
  refine ⟨?_, ?_, ?_, addBits_z .., addBits_n ..⟩
  · rw [toNat_addByte]
    omega
  · rw [addBits_c, decide_eq_true_iff]
    omega
  · rw [addBits_v, overflow_iff _ _ (carryIn_lt _), hint]
    omega

end instructions

end Sys2Proof.Machine

namespace Sys2Proof.Proofs.AddSub
open Sys2Proof.Machine

/-- Settles O36. -/
theorem addSubArithmetic : Obligations.AddSubArithmetic := fun _ _ _ _ _ _ hr =>
  ⟨execAdc_arithmetic hr, execSbc_arithmetic hr⟩

end Sys2Proof.Proofs.AddSub
end

section
/-! The CPU's and the PPU's address spaces (O46, O49 to O53, O57): each region's reads and writes said once, then the
stack, the mirrors, the illegal accesses, the side effects of a read and the frame of a write. -/

namespace Sys2Proof.Machine

/-! ## The regions of the bus (R82, R88, R90) -/

section regions
variable {a : Addr}

theorem busCell_unmapped (h : 0x4000 ≤ a.toNat ∧ a.toNat < 0x6000) (hdma : a.toNat ≠ 0x4014)
    (hlatch : a.toNat ≠ 0x4016) : busCell a = .unmapped := by
  simp only [busCell]
  rw [if_neg (by omega), if_neg (by omega), if_neg hdma, if_neg hlatch, if_pos h.2]

theorem busCell_prgRam (h : 0x6000 ≤ a.toNat ∧ a.toNat < 0x8000) : busCell a = .prgRam (a.toNat - 0x6000) := by
  simp only [busCell]
  rw [if_neg (by omega), if_neg (by omega), if_neg (by omega), if_neg (by omega), if_neg (by omega), if_pos h.2]

theorem busCell_oamDma (h : a.toNat = 0x4014) : busCell a = .oamDma := by
  simp [busCell, h]

theorem busCell_inputLatch (h : a.toNat = 0x4016) : busCell a = .inputLatch := by
  simp [busCell, h]

end regions

/-! ## A read by its region -/

section reads
variable {a : Addr} (s : State)

theorem busRead_unmapped (h : busCell a = .unmapped) : busRead a s = .ok 0x00 s := by
  simp only [busRead, h]

theorem busRead_prgRam (h : 0x6000 ≤ a.toNat ∧ a.toNat < 0x8000) :
    busRead a s = .ok (s.prgRam.read (a.toNat - 0x6000)) s := by
  simp only [busRead, busCell_prgRam h]

theorem busRead_inputLatch (h : a.toNat = 0x4016) : busRead a s = latchRead s := by
  simp only [busRead, busCell_inputLatch h]

variable (hw : 0x2000 ≤ a.toNat ∧ a.toNat < 0x4000)
include hw

theorem busRead_status (h : a.toNat % 8 = 2) : busRead a s = .ok s.ppu.status (s.setPpu s.ppu.afterStatusRead) := by
  simp only [busRead, busCell_ppuReg hw, ppuRegRead, h]

theorem busRead_oamData (h : a.toNat % 8 = 4) : busRead a s = .ok (s.ppu.oam.read s.ppu.oamAddr.toNat) s := by
  simp only [busRead, busCell_ppuReg hw, ppuRegRead, h]

theorem busRead_data (h : a.toNat % 8 = 7) : busRead a s = dataRead s := by
  simp only [busRead, busCell_ppuReg hw, ppuRegRead, h]

end reads

/-- The illegal reads are the OAM DMA register's and those of the window's write-only registers (R93). -/
theorem busRead_illegal {a : Addr} (h : a.toNat = 0x4014 ∨ (0x2000 ≤ a.toNat ∧ a.toNat < 0x4000) ∧
    (a.toNat % 8 ≤ 1 ∨ a.toNat % 8 = 3 ∨ a.toNat % 8 = 5 ∨ a.toNat % 8 = 6)) (s : State) :
    busRead a s = illegalRead a s := by
  obtain hdma | ⟨hw, hreg⟩ := h
  · simp only [busRead, busCell_oamDma hdma]
  · simp only [busRead, busCell_ppuReg hw, ppuRegRead]
    split
    · omega
    · omega
    · omega
    · rfl

/-- A read outside the window and the two device addresses gives a byte that no PPU state decides, and changes
nothing (R83, R88, R90, R91). -/
theorem busRead_noDevice {a : Addr} (hw : ¬(0x2000 ≤ a.toNat ∧ a.toNat < 0x4000)) (hdma : a.toNat ≠ 0x4014)
    (hlatch : a.toNat ≠ 0x4016) (s : State) : ∃ b, ∀ q, busRead a (s.setPpu q) = .ok b (s.setPpu q) := by
  by_cases hram : a.toNat < 0x2000
  · exact ⟨s.ram.read (a.toNat % 0x800), fun q => busRead_ram (busCell_ram hram) (s.setPpu q)⟩
  by_cases hrom : 0x8000 ≤ a.toNat
  · exact ⟨s.prg.read ((a.toNat - 0x8000) % prgLength s.prgSize), fun q => busRead_prgRom hrom (s.setPpu q)⟩
  by_cases hprg : 0x6000 ≤ a.toNat
  · exact ⟨s.prgRam.read (a.toNat - 0x6000), fun q => busRead_prgRam (s.setPpu q) ⟨hprg, by omega⟩⟩
  · exact ⟨0x00, fun q => busRead_unmapped (s.setPpu q) (busCell_unmapped (by omega) hdma hlatch)⟩

/-! ## Illegal accesses (R93) -/

section illegal
variable {s : State} (a : Addr)

theorem illegalRead_strict (h : s.config.busMode = .strict) :
    illegalRead a s = .fault (raise (.illegalAccess a .read) s) := by
  simp only [illegalRead, h]

theorem illegalRead_tolerant (h : s.config.busMode = .tolerant) :
    illegalRead a s = .ok (Config.freeByte s.draws) (s.setDraws (s.draws + 1)) := by
  simp only [illegalRead, h]

theorem illegalWrite_strict (h : s.config.busMode = .strict) :
    illegalWrite a s = .fault (raise (.illegalAccess a .write) s) := by
  simp only [illegalWrite, h]

theorem illegalWrite_tolerant (h : s.config.busMode = .tolerant) : illegalWrite a s = .ok () s := by
  simp only [illegalWrite, h]

/-- An illegal read that completes is tolerant mode's. -/
theorem illegalRead_eq_ok {v : Byte} {t : State} (h : illegalRead a s = .ok v t) :
    s.config.busMode = .tolerant ∧ t = s.setDraws (s.draws + 1) := by
  cases hm : s.config.busMode with
  | strict => rw [illegalRead_strict a hm] at h; cases h
  | tolerant => rw [illegalRead_tolerant a hm] at h; cases h; exact ⟨rfl, rfl⟩

end illegal

/-- The illegal writes by a plain decode: PRG-ROM and the status register (R93). -/
theorem busWrite_illegal {a : Addr} (h : 0x8000 ≤ a.toNat ∨ (0x2000 ≤ a.toNat ∧ a.toNat < 0x4000) ∧ a.toNat % 8 = 2)
    (v : Byte) (s : State) : busWrite a v s = (illegalWrite a s).bind fun _ s1 => .ok 0 s1 := by
  obtain hrom | ⟨hw, h2⟩ := h
  · simp only [busWrite, busCell_prgRom hrom]
  · simp only [busWrite, busCell_ppuReg hw, ppuRegWrite, h2]

theorem busWrite_data {a : Addr} (hw : 0x2000 ≤ a.toNat ∧ a.toNat < 0x4000) (h : a.toNat % 8 = 7) (v : Byte)
    (s : State) : busWrite a v s = (dataWrite a v s).bind fun _ s1 => .ok 0 s1 := by
  simp only [busWrite, busCell_ppuReg hw, ppuRegWrite, h]

/-- A data-port write to CHR-ROM is an illegal write, and PPUADDR advances after it (R102, R408). -/
theorem dataWrite_chrRom {s : State} (hrom : s.ppu.chrRom = true) (h : s.ppu.vramAddr.toNat < 0x2000) (a : Addr)
    (v : Byte) :
    dataWrite a v s = (illegalWrite a s).bind fun _ s1 => .ok () (s1.setPpu s1.ppu.increment) := by
  simp only [dataWrite, ppuWrite, ppuCell, if_pos h, hrom, if_true]

/-! ## The input latch and the data port -/

/-- A read of the latch moves CURSOR at most, and by one (R426). -/
theorem latchRead_eq (s : State) :
    ∃ b, latchRead s = .ok b { s with
      cursor := if s.strobe = true ∨ 8 ≤ s.cursor then s.cursor else s.cursor + 1 } := by
  unfold latchRead
  by_cases h8 : 8 ≤ s.cursor
  · rw [if_pos h8, if_pos (.inr h8)]
    exact ⟨_, rfl⟩
  · rw [if_neg h8]
    by_cases hs : s.strobe = true
    · rw [if_pos hs, if_pos (Or.inl hs : s.strobe = true ∨ 8 ≤ s.cursor)]
      exact ⟨_, rfl⟩
    · rw [if_neg hs, if_neg (not_or.2 ⟨hs, h8⟩ : ¬(s.strobe = true ∨ 8 ≤ s.cursor))]
      exact ⟨_, rfl⟩

/-- A read of the PPU address space changes nothing (R408). -/
theorem ppuRead_state {q : VAddr} {s t : State} {b : Byte} (h : ppuRead q s = .ok b t) : t = s := by
  unfold ppuRead at h
  split at h <;> cases h <;> rfl

/-- A read of the data port advances PPUADDR and may reload READBUF (R407, R408). -/
theorem dataRead_eq_ok {s t : State} {v : Byte} (h : dataRead s = .ok v t) :
    t = { s with ppu := { s.ppu with vramAddr := s.ppu.vramAddr + s.ppu.step, readBuf := t.ppu.readBuf } } := by
  unfold dataRead at h
  simp only at h
  split at h
  · obtain ⟨b, u, hb, hv⟩ := Access.bind_eq_ok.1 h
    cases hv
    rw [ppuRead_state hb]
    rfl
  · cases h
    rfl

/-! ## The PPU address space (R101 to R105) -/

section ppuSpace
variable {q : VAddr} {s : State} {i : Nat} (a : Addr) (v : Byte)

theorem ppuAccess_chr (h : ppuCell s.ppu.mirroring q = .chr i) :
    ppuRead q s = .ok (s.ppu.chr.read i) s ∧
      (s.ppu.chrRom = false →
        ppuWrite a q v s = .ok () { s with ppu := { s.ppu with chr := s.ppu.chr.write i v } }) := by
  refine ⟨by simp only [ppuRead, h], fun hram => ?_⟩
  simp only [ppuWrite, h, hram]
  rfl

theorem ppuAccess_vram (h : ppuCell s.ppu.mirroring q = .vram i) :
    ppuRead q s = .ok (s.ppu.vram.read i) s ∧
      ppuWrite a q v s = .ok () { s with ppu := { s.ppu with vram := s.ppu.vram.write i v } } := by
  unfold ppuRead ppuWrite
  rw [h]
  exact ⟨rfl, rfl⟩

theorem ppuAccess_palette (h : ppuCell s.ppu.mirroring q = .palette i) :
    ppuRead q s = .ok (s.ppu.palette.read i) s ∧
      ppuWrite a q v s = .ok () { s with ppu := { s.ppu with palette := s.ppu.palette.write i v } } := by
  unfold ppuRead ppuWrite
  rw [h]
  exact ⟨rfl, rfl⟩

theorem ppuAccess_missing (h : ppuCell s.ppu.mirroring q = .missing) :
    ppuRead q s = .fault (raise (.unmodelled q) s) ∧ ppuWrite a q v s = .fault (raise (.unmodelled q) s) := by
  unfold ppuRead ppuWrite
  rw [h]
  exact ⟨rfl, rfl⟩

end ppuSpace

section ppuCell
variable {mir : Mirroring} {q : VAddr}

theorem ppuCell_chr (h : q.toNat < 0x2000) : ppuCell mir q = .chr q.toNat := if_pos h

theorem ppuCell_nametable (h : 0x2000 ≤ q.toNat) (h' : q.toNat < 0x3F00) : ppuCell mir q = nametableCell mir q := by
  simp only [ppuCell]
  rw [if_neg (by omega), if_pos h']

theorem ppuCell_palette (h : 0x3F00 ≤ q.toNat) : ppuCell mir q = .palette (paletteIndex q) := by
  simp only [ppuCell]
  rw [if_neg (by omega), if_neg (by omega)]

/-- Nametables 0 and 1 share the first VRAM page, 2 and 3 the second (R103). -/
theorem nametableCell_horizontal (q : VAddr) :
    nametableCell .horizontal q =
      .vram ((if q.toNat % 0x1000 / 0x400 < 2 then 0 else 0x400) + q.toNat % 0x400) := by
  simp only [nametableCell, PpuCell.vram.injEq]
  split <;> omega

/-- Nametables 0 and 2 share the first VRAM page, 1 and 3 the second (R103). -/
theorem nametableCell_vertical (q : VAddr) :
    nametableCell .vertical q =
      .vram ((if q.toNat % 0x1000 / 0x400 = 0 ∨ q.toNat % 0x1000 / 0x400 = 2 then 0 else 0x400) +
        q.toNat % 0x400) := by
  simp only [nametableCell, PpuCell.vram.injEq]
  split <;> omega

theorem nametableCell_fourScreen (q : VAddr) :
    nametableCell .fourScreen q =
      if q.toNat % 0x1000 / 0x400 < 2 then .vram (q.toNat % 0x1000 / 0x400 * 0x400 + q.toNat % 0x400)
      else .missing := by
  simp only [nametableCell]
  rw [Nat.mod_mod_of_dvd _ (by decide : 0x400 ∣ 0x1000)]

end ppuCell

end Sys2Proof.Machine

namespace Sys2Proof.Proofs.AddressMap
open Sys2Proof.Machine

/-- Settles O46: the stack page lies in RAM. -/
theorem pushPull : Obligations.PushPull := fun s v w => by
  have hsub : s.sp - 1 - 1 = s.sp - 2 := by bv_omega
  have hadd : s.sp + 1 + 1 = s.sp + 2 := BitVec.add_assoc s.sp 1 1
  refine ⟨push_eq v s, pull_eq s, ?_, ?_⟩
  · rw [push16_eq, hsub]
    rfl
  · rw [pull16_eq, hadd]
    rfl

/-- Settles O49. -/
theorem ramMirrors : Obligations.RamMirrors := by
  refine ⟨fun a v s h => ⟨busRead_ram (busCell_ram h) s, busWrite_ram (busCell_ram h) v s⟩, ?_⟩
  intro a v s t ha hwrite
  rw [busWrite_ram (busCell_ram (by omega))] at hwrite
  cases hwrite
  have mirror : ∀ b : Addr, b.toNat < 0x2000 → b.toNat % 0x800 = a.toNat % 0x800 →
      busRead b (s.setRam (s.ram.write (a.toNat % 0x800) v)) =
        .ok v (s.setRam (s.ram.write (a.toNat % 0x800) v)) := by
    intro b hb hmod
    rw [busRead_ram (busCell_ram hb), State.setRam_ram, hmod, Memory.read_write_same]
  exact ⟨mirror a (by omega) rfl, mirror _ (by bv_omega) (by bv_omega), mirror _ (by bv_omega) (by bv_omega),
    mirror _ (by bv_omega) (by bv_omega)⟩

/-- Settles O50. -/
theorem plainRegions : Obligations.PlainRegions := by
  refine fun a v s => ⟨fun h => ?_, fun h => ?_, fun h => busRead_prgRom h s⟩
  · have hcell : busCell a = .unmapped := busCell_unmapped (by omega) (by omega) (by omega)
    exact ⟨busRead_unmapped s hcell, by simp only [busWrite, hcell]⟩
  · have hcell := busCell_prgRam (a := a) (by omega)
    exact ⟨busRead_prgRam s (by omega), by simp only [busWrite, hcell]; rfl⟩

/-- Settles O51. -/
theorem illegalAccesses : Obligations.IllegalAccesses := by
  refine fun a v s => ⟨fun h => ?_, fun h => ?_, fun ⟨hw, h7, hrom, hchr⟩ => ?_⟩
  · rw [busRead_illegal h]
    exact ⟨illegalRead_strict a, fun hm => ⟨_, illegalRead_tolerant a hm⟩⟩
  · rw [busWrite_illegal h]
    exact ⟨fun hm => by rw [illegalWrite_strict a hm]; rfl, fun hm => by rw [illegalWrite_tolerant a hm]; rfl⟩
  · rw [busWrite_data hw h7, dataWrite_chrRom hrom hchr]
    exact ⟨fun hm => by rw [illegalWrite_strict a hm]; rfl, fun hm => by rw [illegalWrite_tolerant a hm]; rfl⟩

/-- Settles O52: the regions of the bus and the registers of the window, one by one. -/
theorem readSideEffects : Obligations.ReadSideEffects := by
  intro a s t v h
  refine ⟨fun ⟨hw, hreg⟩ => ?_, fun ⟨hw, hreg⟩ => ?_, fun hlatch => ?_, fun hill => ?_, fun hrest => ?_⟩
  · rw [busRead_status s hw hreg] at h
    cases h
    rfl
  · rw [busRead_data s hw hreg] at h
    exact dataRead_eq_ok h
  · obtain ⟨b, hb⟩ := latchRead_eq s
    rw [busRead_inputLatch s hlatch, hb] at h
    cases h
    exact ⟨rfl, by dsimp only; split <;> simp⟩
  · rw [busRead_illegal hill] at h
    obtain ⟨hm, rfl⟩ := illegalRead_eq_ok a h
    exact ⟨hm, rfl⟩
  · obtain ⟨hw, hreg⟩ | ⟨hw, hdma, hlatch⟩ := hrest
    · rw [busRead_oamData s hw hreg] at h
      cases h
      rfl
    · obtain ⟨b, hb⟩ := busRead_noDevice hw hdma hlatch s
      rw [show busRead a s = .ok b s from hb s.ppu] at h
      cases h
      rfl

/-- Settles O53. -/
theorem busWriteFrame : Obligations.BusWriteFrame := fun _ _ _ _ _ h =>
  have cpu := busWrite_cpu h
  ⟨busWrite_byteAt h, cpu.a, cpu.x, cpu.y, cpu.sp, cpu.p, cpu.pc, cpu.run, cpu.cycles, cpu.scanline, cpu.dot⟩

/-- Settles O57: the cell of an address decides the read and the write. -/
theorem ppuAddressMap : Obligations.PpuAddressMap := by
  refine fun q a v s => ⟨fun h => ppuAccess_chr a v (ppuCell_chr h), fun h h' => ?_, fun h => ⟨fun hk => ?_, ?_⟩⟩
  · have hcell := ppuCell_nametable (mir := s.ppu.mirroring) h h'
    refine ⟨fun hm => ppuAccess_vram a v ?_, fun hm => ppuAccess_vram a v ?_,
      fun hm hnt => ppuAccess_vram a v ?_, fun hm hnt => ppuAccess_missing a v ?_⟩ <;> rw [hcell, hm]
    · exact nametableCell_horizontal q
    · exact nametableCell_vertical q
    · rw [nametableCell_fourScreen, if_pos hnt]
    · rw [nametableCell_fourScreen, if_neg (by omega)]
  · refine ppuAccess_palette a v ((ppuCell_palette h).trans ?_)
    exact congrArg PpuCell.palette (if_pos hk)
  · intro h10 h14 h18 h1C
    refine ppuAccess_palette a v ((ppuCell_palette h).trans ?_)
    exact congrArg PpuCell.palette (if_neg (by omega))

end Sys2Proof.Proofs.AddressMap
end

section
/-! What an instruction leaves of the arrays and the devices (O26 to O29), and INC and DEC (O38): one relation between a
state and the state before the instruction's Tick, said once for each class and then of each instruction. -/

namespace Sys2Proof.Machine

/-! ## What an update of the CPU leaves -/

/-- `s` with the CPU's registers of `u`. -/
def withRegisters (s u : State) : State :=
  { s with a := u.a, x := u.x, y := u.y, sp := u.sp, p := u.p, pc := u.pc }

theorem byteAt_withRegisters (s u : State) (r : Space) (k : Nat) : (withRegisters s u).byteAt r k = s.byteAt r k := by
  cases r <;> rfl

theorem byteAt_of_registers {s u : State} (h : u = withRegisters s u) (r : Space) (k : Nat) :
    u.byteAt r k = s.byteAt r k := by
  rw [h, byteAt_withRegisters]

/-- Where a write leads depends on no register of the CPU. -/
theorem storesTo_of_registers {s u : State} (h : u = withRegisters s u) (a : Addr) (r : Space) (k : Nat) :
    storesTo a u r k = storesTo a s r k := by
  rw [h]
  rfl

/-- What an instruction has changed before its Tick: no byte unless it stores, and no device unless it accesses its
operand or a pointer (R86, R122, R174). -/
structure BeforeTick (i : Instr) (s u : State) : Prop where
  bytes   : i.stores = false → ∀ r k, u.byteAt r k = s.byteAt r k
  devices : i.accessesData = false → u = { withRegisters s u with ram := u.ram }

/-- The instruction ends in `t` by one Tick, and by what it makes of RUN, which BRK alone changes (R305). -/
def Ends (i : Instr) (s t : State) : Prop :=
  ∃ n u run, BeforeTick i s u ∧ t = (tick n u).setRun run

namespace BeforeTick
variable {i : Instr} {s u : State}

theorem of_registers (h : u = withRegisters s u) : BeforeTick i s u where
  bytes _ := byteAt_of_registers h
  devices _ := by
    have hram : u.ram = (withRegisters s u).ram := congrArg State.ram h
    rw [hram]
    exact h

/-- A read of the instruction's own data changes devices, and no byte. -/
theorem of_read (hi : i.accessesData = true) (h : ∀ r k, u.byteAt r k = s.byteAt r k) : BeforeTick i s u :=
  ⟨fun _ => h, fun hn => Bool.noConfusion (hi.symm.trans hn)⟩

theorem of_push (hi : i.stores = true) (h : u = { withRegisters s u with ram := u.ram }) : BeforeTick i s u :=
  ⟨fun hn => Bool.noConfusion (hi.symm.trans hn), fun _ => h⟩

theorem of_store (hi : i.stores = true) (ha : i.accessesData = true) : BeforeTick i s u :=
  ⟨fun hn => Bool.noConfusion (hi.symm.trans hn), fun hn => Bool.noConfusion (ha.symm.trans hn)⟩

end BeforeTick

namespace Ends
variable {i : Instr} {s t : State}

/-! ## The classes of instructions -/

theorem of_tick {u : State} {n : Nat} (h : BeforeTick i s u) : Ends i s (tick n u) := ⟨n, u, u.run, h, rfl⟩

theorem finish {u : State} {next : Addr} {n : Nat} (hn : finish next n u = .next t)
    (h : BeforeTick i s (u.setPc next)) : Ends i s t := by
  cases hn
  exact .of_tick h

theorem advance {u : State} {op : Op} {m : Mode} {c : Bool} {extra : Nat} (hn : advance op m c extra u = .next t)
    (h : BeforeTick i s (u.setPc (u.pcAfter m))) : Ends i s t :=
  finish hn h

theorem impliedClass {op : Op} {effect : State → State} (hn : impliedClass op effect s = .next t)
    (he : ∀ u, effect u = withRegisters u (effect u)) : Ends i s t :=
  advance hn (.of_registers (by rw [he s]; rfl))

theorem readClass {op : Op} {o : Source} {effect : Byte → State → State} (hn : readClass op o effect s = .next t)
    (he : ∀ v u, effect v u = withRegisters u (effect v u)) (ha : ∀ m, o = .mem m → i.accessesData = true) :
    Ends i s t := by
  obtain ⟨v, c, u, hr, rfl⟩ := readClass_next hn
  refine of_tick ?_
  cases o with
  | imm w =>
    cases hr
    exact .of_registers (by rw [he v s]; rfl)
  | mem m =>
    refine .of_read (ha m rfl) fun r k => ?_
    rw [byteAt_setPc, byteAt_of_registers (he v u), readSource_byteAt hr]

theorem writeClass {op : Op} {m : MemOperand} {value : State → Byte} (hn : writeClass op m value s = .next t)
    (hi : i.stores = true) (ha : i.accessesData = true) : Ends i s t := by
  obtain ⟨e, stall, u, -, -, rfl⟩ := writeClass_next hn
  exact of_tick (.of_store hi ha)

theorem rmwClass {op : Op} {m : MemOperand} {modify : Byte → State → Byte × State} {after : Byte → State → State}
    (hn : rmwClass op m modify after s = .next t) (hi : i.stores = true) (ha : i.accessesData = true) : Ends i s t := by
  obtain ⟨e, v, w, stall, u, -, -, -, rfl⟩ := rmwClass_next hn
  exact of_tick (.of_store hi ha)

theorem shiftClass {op : Op} {o : ShiftOperand} {core : Byte → State → Byte × State}
    (hn : shiftClass op o core s = .next t) (hc : ∀ v u, (core v u).2 = withRegisters u (core v u).2)
    (hi : ∀ m, o = .mem m → i.stores = true ∧ i.accessesData = true) : Ends i s t := by
  cases o with
  | acc => exact advance hn (.of_registers (by rw [hc s.a s]; rfl))
  | mem m => exact rmwClass (after := fun r t => t.setZN r) hn (hi m rfl).1 (hi m rfl).2

theorem branch {op : Op} {cond : State → Bool} {d : Byte} (hn : branch op cond d s = .next t) : Ends i s t := by
  unfold Machine.branch at hn
  simp only at hn
  split at hn
  · exact finish hn (.of_registers rfl)
  · exact finish hn (.of_registers rfl)

end Ends

theorem resolveIndirect_byteAt {p a : Addr} {s t : State} (h : resolveIndirect p s = .ok a t) (r : Space) (k : Nat) :
    t.byteAt r k = s.byteAt r k := by
  obtain ⟨lo, u, hu, h⟩ := Access.bind_eq_ok.1 h
  obtain ⟨hi, w, hw, h⟩ := Access.bind_eq_ok.1 h
  cases h
  rw [busRead_byteAt hw, busRead_byteAt hu]

/-- Every instruction that completes changes, before its Tick, only what its class may change. -/
theorem exec_ends {i : Instr} {s t : State} (h : exec i s = .next t) : Ends i s t := by
  cases i with
  | lda o | ldx o | ldy o | adc o | sbc o | and o | ora o | eor o | cmp o | cpx o | cpy o =>
    simp only [exec, execLda, execLdx, execLdy, execAdc, execSbc, execAnd, execOra, execEor, execCmp, execCpx,
      execCpy] at h
    exact .readClass h (fun _ _ => rfl) (by rintro m rfl; rfl)
  | bit m | lax m =>
    simp only [exec, execBit, execLax] at h
    exact .readClass h (fun _ _ => rfl) (fun _ _ => rfl)
  | sbcUndoc v =>
    simp only [exec, execSbcUndoc] at h
    exact .readClass h (fun _ _ => rfl) nofun
  | nopUndoc code o =>
    simp only [exec, execNopUndoc] at h
    cases o with
    | implied => exact .impliedClass h fun _ => rfl
    | read o => exact .readClass h (fun _ _ => rfl) (by rintro m rfl; rfl)
  | sta m | stx m | sty m | sax m =>
    simp only [exec, execSta, execStx, execSty, execSax] at h
    exact .writeClass h rfl rfl
  | inc m | dec m | slo m | rla m | sre m | rra m | dcp m | isb m =>
    simp only [exec, execInc, execDec, execSlo, execRla, execSre, execRra, execDcp, execIsb] at h
    exact .rmwClass h rfl rfl
  | asl o | lsr o | rol o | ror o =>
    simp only [exec, execAsl, execLsr, execRol, execRor] at h
    exact .shiftClass h (fun _ _ => rfl) (by rintro m rfl; exact ⟨rfl, rfl⟩)
  | tax | tay | txa | tya | tsx | txs | inx | iny | dex | dey | nop =>
    simp only [exec, execTax, execTay, execTxa, execTya, execTsx, execTxs, execInx, execIny, execDex, execDey,
      execNop] at h
    exact .impliedClass h fun _ => rfl
  | clc | sec | cli | sei | cld | sed | clv =>
    simp only [exec, execClc, execSec, execCli, execSei, execCld, execSed, execClv] at h
    exact .impliedClass h fun _ => rfl
  | bpl d | bmi d | bvc d | bvs d | bcc d | bcs d | bne d | beq d =>
    simp only [exec, execBpl, execBmi, execBvc, execBvs, execBcc, execBcs, execBne, execBeq] at h
    exact .branch h
  | jmp a => exact .finish h (.of_registers rfl)
  | jmpInd p =>
    simp only [exec, execJmpInd] at h
    obtain ⟨a, u, hu, hn⟩ := Access.andThen_eq_next.1 h
    exact .finish hn (.of_read rfl fun r k => by rw [byteAt_setPc, resolveIndirect_byteAt hu])
  | jsr a =>
    simp only [exec, execJsr, push16_eq, Access.andThen_ok] at h
    exact .finish h (.of_push rfl rfl)
  | rts =>
    simp only [exec, execRts, pull16_eq, Access.andThen_ok] at h
    exact .finish h (.of_registers rfl)
  | rti =>
    simp only [exec, execRti, pullFrame_eq, Access.andThen_ok] at h
    exact .finish h (.of_registers rfl)
  | pha | php =>
    simp only [exec, execPha, execPhp, push_eq, Access.andThen_ok] at h
    exact .advance h (.of_push rfl rfl)
  | pla | plp =>
    simp only [exec, execPla, execPlp, pull_eq, Access.andThen_ok] at h
    exact .advance h (.of_registers rfl)
  | brk =>
    cases h
    exact ⟨_, _, .halted, .of_registers rfl, rfl⟩
  | undefined code => cases h

/-! ## Stores -/

/-- A store changes no byte but the one that its address leads to. -/
theorem writeClass_byteAt {op : Op} {m : MemOperand} {value : State → Byte} {s u t : State} {e : EffAddr}
    (hr : resolve m s = .ok e u) (h : writeClass op m value s = .next t) {r : Space} {k : Nat}
    (hk : storesTo e.ea u r k = false) : t.byteAt r k = s.byteAt r k := by
  obtain ⟨e', stall, w, hr', hw, rfl⟩ := writeClass_next h
  cases hr.symm.trans hr'
  rw [byteAt_tick, byteAt_setPc, busWrite_byteAt hw r k hk]

/-- A read-modify-write changes no byte but the one that its address leads to after its read (R117). -/
theorem rmwClass_byteAt {op : Op} {m : MemOperand} {modify : Byte → State → Byte × State}
    {after : Byte → State → State} {s u w t : State} {e : EffAddr} {v : Byte}
    (h : rmwClass op m modify after s = .next t) (hm : ∀ v u, (modify v u).2 = withRegisters u (modify v u).2)
    (ha : ∀ v u, after v u = withRegisters u (after v u)) (hr : resolve m s = .ok e u) (hv : busRead e.ea u = .ok v w)
    {r : Space} {k : Nat} (hk : storesTo e.ea w r k = false) : t.byteAt r k = s.byteAt r k := by
  obtain ⟨e', v', w', stall, x, hr', hv', hw, rfl⟩ := rmwClass_next h
  cases hr.symm.trans hr'
  cases hv.symm.trans hv'
  have hstore : storesTo e.ea (modify v w).2 r k = false := (storesTo_of_registers (hm v w) ..).trans hk
  rw [byteAt_tick, byteAt_setPc, byteAt_of_registers (ha _ x), busWrite_byteAt hw r k hstore,
    byteAt_of_registers (hm v w), busRead_byteAt hv]

/-- A push changes no byte but its own in the stack page (R110). -/
theorem push_byteAt {v : Byte} {s t : State} (h : push v s = .ok () t) {r : Space} {k : Nat}
    (hk : ¬(r = .ram ∧ k = stackIndex s.sp)) : t.byteAt r k = s.byteAt r k := by
  rw [push_eq] at h
  cases h
  cases r with
  | ram => exact Memory.read_write_ne _ _ fun hi => hk ⟨rfl, hi⟩
  | _ => rfl

theorem push16_byteAt {v : Addr} {s t : State} (h : push16 v s = .ok () t) {r : Space} {k : Nat}
    (hk : ¬(r = .ram ∧ (k = stackIndex s.sp ∨ k = stackIndex (s.sp - 1)))) : t.byteAt r k = s.byteAt r k := by
  rw [push16_eq] at h
  cases h
  cases r with
  | ram =>
    exact (Memory.read_write_ne _ _ fun hi => hk ⟨rfl, .inr hi⟩).trans
      (Memory.read_write_ne _ _ fun hi => hk ⟨rfl, .inl hi⟩)
  | _ => rfl

/-! ## INC and DEC -/

/-- A read-modify-write of `core v` that writes Z and N of it, and no state before the store. -/
theorem rmwClass_zn {i : Instr} {op : Op} {m : MemOperand} {core : Byte → State → Byte × State} {s u w t : State}
    {e : EffAddr} {v r : Byte} {stall : Nat} (hop : op ∈ rmwOps) (ho : i.op = some op) (hmode : i.mode = m.mode)
    (hwf : i.wellFormed = true) (hr : resolve m s = .ok e u) (hv : busRead e.ea u = .ok v w)
    (hcore : core v w = (r, w)) (hw : busWrite e.ea r w = .ok stall t) :
    rmwClass op m core (fun r t => t.setZN r) s =
      .next (tick (rmwCycles m + stall) { t with p := znBits t.p r, pc := t.pc + BitVec.ofNat 16 m.bytes.length }) := by
  have hm : m.mode ∈ op.modes := hmode ▸ mode_mem ho hwf
  rw [rmwClass_ok hr hv (by rw [hcore]; exact hw), hcore, charge_rmw hop hm, pcAfter_mem, setZN_eq]
  rfl

end Sys2Proof.Machine

namespace Sys2Proof.Proofs.ArrayFrame
open Sys2Proof.Machine

/-- Settles O26: before its Tick the instruction has changed no byte, and the Tick changes none. -/
theorem noStoreLeavesBytes : Obligations.NoStoreLeavesBytes := by
  intro i s t h hi r k
  obtain ⟨n, u, run, hu, rfl⟩ := exec_ends h
  rw [byteAt_setRun, byteAt_tick, hu.bytes hi]

/-- Settles O27: before the Tick the devices are those of `s`, and the Tick is of the cycles counted. -/
theorem noAccessLeavesDevices : Obligations.NoAccessLeavesDevices := by
  intro i s t h hi
  obtain ⟨n, u, run, hu, rfl⟩ := exec_ends h
  rw [hu.devices hi]
  refine ⟨?_, Nat.le_add_right s.cycles n, rfl, rfl, rfl, rfl, rfl, rfl, rfl⟩
  show (ppuTick s.config.spriteEval (3 * n) s.ppu).1 =
    (ppuTick s.config.spriteEval (3 * (s.cycles + n - s.cycles)) s.ppu).1
  rw [Nat.add_sub_cancel_left]

/-- Settles O28. -/
theorem storesLeaveOtherBytes : Obligations.StoresLeaveOtherBytes := by
  refine ⟨fun m s u t e hr h r k hk => ?_, fun s t h r k hk => ?_, fun s t a h r k hk => ?_⟩
  · simp only [exec, execSta, execStx, execSty, execSax] at h
    obtain h | h | h | h := h
    · exact writeClass_byteAt hr h hk
    · exact writeClass_byteAt hr h hk
    · exact writeClass_byteAt hr h hk
    · exact writeClass_byteAt hr h hk
  · have pushed : ∀ {v : Byte} {op : Op},
        ((push v s).andThen fun _ s1 => advance op .implied false 0 s1) = .next t → t.byteAt r k = s.byteAt r k := by
      intro v op h
      obtain ⟨_, u, hu, hn⟩ := Access.andThen_eq_next.1 h
      cases hn
      rw [byteAt_tick, byteAt_setPc, push_byteAt hu hk]
    exact h.elim pushed pushed
  · simp only [exec, execJsr] at h
    obtain ⟨_, u, hu, hn⟩ := Access.andThen_eq_next.1 h
    cases hn
    rw [byteAt_tick, byteAt_setPc, push16_byteAt hu hk]

/-- Settles O29: all twelve are of the read-modify-write class, with register updates around the store. -/
theorem rmwLeavesOtherBytes : Obligations.RmwLeavesOtherBytes := by
  rintro m s u w t e v hr hv ⟨i, hi, h⟩ r k hk
  simp only [List.mem_cons, List.not_mem_nil, or_false] at hi
  obtain rfl | rfl | rfl | rfl | rfl | rfl | rfl | rfl | rfl | rfl | rfl | rfl := hi
  all_goals
    simp only [exec, execInc, execDec, execAsl, execLsr, execRol, execRor, execSlo, execRla, execSre, execRra, execDcp,
      execIsb, shiftClass] at h
    exact rmwClass_byteAt h (fun _ _ => rfl) (fun _ _ => rfl) hr hv hk

/-- Settles O38. -/
theorem incDecComplete : Obligations.IncDecComplete := fun _ _ _ _ _ _ _ _ hr hv =>
  ⟨fun hwf hw => rmwClass_zn (by decide) rfl rfl hwf hr hv rfl hw,
    fun hwf hw => rmwClass_zn (by decide) rfl rfl hwf hr hv rfl hw⟩

end Sys2Proof.Proofs.ArrayFrame
end

section
/-! OAM DMA (O59): the copy by an induction over the bytes copied, what OAM holds after each, and the pages of the bus
that it reads. -/

namespace Sys2Proof.Machine

/-! ## The copy -/

/-- The state after one byte of the copy has landed at OAMADDR (R411). -/
def State.putOam (s : State) (b : Byte) : State := s.setPpu (s.ppu.writeOam b)

/-- The address of byte `i` of a page. -/
def pageAddr (page : Byte) (i : Nat) : Addr := addr16 page (BitVec.ofNat 8 i)

theorem toNat_pageAddr (page : Byte) {i : Nat} (hi : i < 256) : (pageAddr page i).toNat = page.toNat * 256 + i := by
  rw [pageAddr, toNat_addr16, BitVec.toNat_ofNat, Nat.mod_eq_of_lt hi]

theorem ofNat_add_one (w n : Nat) : BitVec.ofNat w n + 1 = BitVec.ofNat w (n + 1) := (BitVec.ofNat_add n 1).symm

theorem oamCopy_succ {page : Byte} {n i : Nat} {s u : State} {b : Byte} (h : busRead (pageAddr page i) s = .ok b u) :
    oamCopy page (n + 1) (BitVec.ofNat 8 i) s = oamCopy page n (BitVec.ofNat 8 (i + 1)) (u.putOam b) := by
  rw [oamCopy, show busRead (addr16 page (BitVec.ofNat 8 i)) s = _ from h, Access.bind_ok, ofNat_add_one]
  rfl

theorem oamCopy_fault {page : Byte} {n i : Nat} {s : State} {f : Fault} (h : busRead (pageAddr page i) s = .fault f) :
    oamCopy page (n + 1) (BitVec.ofNat 8 i) s = .fault f := by
  rw [oamCopy, show busRead (addr16 page (BitVec.ofNat 8 i)) s = _ from h, Access.bind_fault]

/-- The induction over the bytes copied: what holds at the start and is kept by each byte, read and put, holds after
`n` bytes, and the rest of the copy goes on from there. -/
theorem oamCopy_induction {page : Byte} {s : State} {R : Nat → State → Prop} (h0 : R 0 s) (n : Nat)
    (step : ∀ i t, i < n → R i t → ∃ b u, busRead (pageAddr page i) t = .ok b u ∧ R (i + 1) (u.putOam b)) :
    ∃ t, R n t ∧ ∀ m, oamCopy page (n + m) 0 s = oamCopy page m (BitVec.ofNat 8 n) t := by
  induction n with
  | zero => exact ⟨s, h0, fun m => by rw [Nat.zero_add]; rfl⟩
  | succ n ih =>
    obtain ⟨t, ht, hcopy⟩ := ih fun i t hi => step i t (by omega)
    obtain ⟨b, u, hread, hu⟩ := step n t (by omega) ht
    refine ⟨u.putOam b, hu, fun m => ?_⟩
    rw [show n + 1 + m = n + (m + 1) by omega, hcopy, oamCopy_succ hread]

/-- A copy of all 256 bytes completes the write to 0x4014, with the stall OAM_DMA_STALL (R411). -/
theorem busWrite_oamDma_ok {page : Byte} {s t : State} (h : oamCopy page 256 0 s = .ok () t) :
    busWrite 0x4014 page s = .ok s.config.oamDmaStall t := by
  have hconfig : t.config = s.config :=
    (((keptByBus_sameCpu s).oamCopy page 256 0 (.rfl' s)).of_ok h).config
  have hcell : busCell 0x4014 = .oamDma := rfl
  simp only [busWrite, hcell, h, Access.bind_ok, hconfig]

theorem busWrite_oamDma_fault {page : Byte} {s : State} {f : Fault} (h : oamCopy page 256 0 s = .fault f) :
    busWrite 0x4014 page s = .fault f := by
  have hcell : busCell 0x4014 = .oamDma := rfl
  simp only [busWrite, hcell, h, Access.bind_fault]

section induction
variable {page : Byte} {s : State} {R : Nat → State → Prop} (h0 : R 0 s)
include h0

theorem oamDma_completes
    (step : ∀ i t, i < 256 → R i t → ∃ b u, busRead (pageAddr page i) t = .ok b u ∧ R (i + 1) (u.putOam b)) :
    ∃ t, R 256 t ∧ busWrite 0x4014 page s = .ok s.config.oamDmaStall t := by
  obtain ⟨t, ht, hcopy⟩ := oamCopy_induction h0 256 step
  exact ⟨t, ht, busWrite_oamDma_ok (hcopy 0)⟩

/-- A read that faults ends the copy there (R387). -/
theorem oamDma_faults {n : Nat} (hn : n < 256)
    (step : ∀ i t, i < n → R i t → ∃ b u, busRead (pageAddr page i) t = .ok b u ∧ R (i + 1) (u.putOam b)) :
    ∃ t, R n t ∧ ∀ f, busRead (pageAddr page n) t = .fault f → busWrite 0x4014 page s = .fault f := by
  obtain ⟨t, ht, hcopy⟩ := oamCopy_induction h0 n step
  refine ⟨t, ht, fun f hf => busWrite_oamDma_fault ?_⟩
  rw [show 256 = n + (255 - n + 1) by omega, hcopy, oamCopy_fault hf]

end induction

/-! ## What OAM holds after `n` bytes -/

/-- `q` is a PPU that had OAM and OAMADDR of `p` before `n` bytes were copied: byte `j` of the page, of which `G j` holds,
stands `j` past the old OAMADDR, and the bytes not reached are as they were. -/
structure OamFilled (G : Byte → Byte → Prop) (p : Ppu) (n : Nat) (q : Ppu) : Prop where
  addr   : q.oamAddr = p.oamAddr + BitVec.ofNat 8 n
  copied : ∀ j : Byte, j.toNat < n → G j (q.oam.read (p.oamAddr + j).toNat)
  kept   : ∀ j : Byte, n ≤ j.toNat → q.oam.read (p.oamAddr + j).toNat = p.oam.read (p.oamAddr + j).toNat

namespace OamFilled
variable {G : Byte → Byte → Prop} {p q : Ppu} {n : Nat}

theorem zero (G : Byte → Byte → Prop) (p : Ppu) : OamFilled G p 0 p :=
  ⟨(BitVec.add_zero _).symm, fun _ h => absurd h (Nat.not_lt_zero _), fun _ _ => rfl⟩

theorem writeOam (h : OamFilled G p n q) (hn : n < 256) {b : Byte} (hb : G (BitVec.ofNat 8 n) b) :
    OamFilled G p (n + 1) (q.writeOam b) where
  addr := by
    show q.oamAddr + 1 = _
    rw [h.addr, BitVec.add_assoc, ofNat_add_one]
  copied j hj := by
    show G j ((q.oam.write q.oamAddr.toNat b).read _)
    rw [h.addr]
    by_cases he : j = BitVec.ofNat 8 n
    · rw [← he] at hb ⊢
      rwa [Memory.read_write_same]
    · have hne : (p.oamAddr + j).toNat ≠ (p.oamAddr + BitVec.ofNat 8 n).toNat := by bv_omega
      rw [Memory.read_write_ne _ _ hne]
      exact h.copied j (by bv_omega)
  kept j hj := by
    show (q.oam.write q.oamAddr.toNat b).read _ = _
    have hne : (p.oamAddr + j).toNat ≠ (p.oamAddr + BitVec.ofNat 8 n).toNat := by bv_omega
    rw [h.addr, Memory.read_write_ne _ _ hne, h.kept j (by omega)]

end OamFilled

/-! ## What else a copy leaves -/

/-- `s` with what a read may change (R86), OAM and OAMADDR of `t`. -/
def copyFrame (s t : State) : State :=
  (readChange s t).setPpu { (readChange s t).ppu with oam := t.ppu.oam, oamAddr := t.ppu.oamAddr }

/-- After `n` bytes of a copy that began in `s`. -/
structure Copied (G : Byte → Byte → Prop) (s : State) (n : Nat) (t : State) : Prop where
  oam   : OamFilled G s.ppu n t.ppu
  frame : t = copyFrame s t

namespace Copied
variable {G : Byte → Byte → Prop} {page : Byte} {s t u : State} {n : Nat} {b : Byte}

theorem zero (G : Byte → Byte → Prop) (s : State) : Copied G s 0 s := ⟨.zero G s.ppu, rfl⟩

/-- One byte more, by any read that completes. -/
theorem succ (h : Copied G s n t) (hn : n < 256) (hread : busRead (pageAddr page n) t = .ok b u)
    (hb : G (BitVec.ofNat 8 n) b) : Copied G s (n + 1) (u.putOam b) := by
  have hu := busRead_changes hread
  have hoam : OamFilled G s.ppu n u.ppu := by
    rw [hu]
    exact ⟨h.oam.addr, h.oam.copied, h.oam.kept⟩
  refine ⟨hoam.writeOam hn hb, ?_⟩
  rw [hu, h.frame]
  rfl

/-- What no read changes (R86). -/
theorem keeps (h : Copied G s n t) : t.config = s.config ∧ t.strobe = s.strobe ∧
    t.ppu.mirroring = s.ppu.mirroring ∧ t.ppu.step = s.ppu.step := by
  rw [h.frame]
  exact ⟨rfl, rfl, rfl, rfl⟩

/-- All 256 bytes bring OAMADDR back. -/
theorem oamAddr (h : Copied G s 256 t) : t.ppu.oamAddr = s.ppu.oamAddr := by
  rw [h.oam.addr]
  exact BitVec.add_zero _

/-- With no side effect of a read, nothing has changed but OAM and OAMADDR. -/
theorem eq_setPpu (h : Copied G s n t) (hs : readChange s t = s) :
    t = s.setPpu { s.ppu with oam := t.ppu.oam, oamAddr := t.ppu.oamAddr } := by
  have hframe := h.frame
  rwa [copyFrame, hs] at hframe

end Copied

/-! ## Pages without a device -/

/-- `b` is byte `j` of the page, where a read of it in `s` has no side effect. -/
def PageByte (page : Byte) (s : State) (j b : Byte) : Prop :=
  ∀ b', busRead (addr16 page j) s = .ok b' s → b = b'

/-- A copy of bytes that no device gives changes nothing but OAM and OAMADDR. -/
theorem copied_of_noDevice {G : Byte → Byte → Prop} {page : Byte} {s t : State} {i : Nat} (hi : i < 256)
    (hw : ¬(0x2000 ≤ (pageAddr page i).toNat ∧ (pageAddr page i).toNat < 0x4000))
    (hdma : (pageAddr page i).toNat ≠ 0x4014) (hlatch : (pageAddr page i).toNat ≠ 0x4016)
    (hG : ∀ b, busRead (pageAddr page i) s = .ok b s → G (BitVec.ofNat 8 i) b)
    (h : Copied G s i t ∧ readChange s t = s) :
    ∃ b u, busRead (pageAddr page i) t = .ok b u ∧ Copied G s (i + 1) (u.putOam b) ∧
      readChange s (u.putOam b) = s := by
  obtain ⟨hcopied, hs⟩ := h
  obtain ⟨b, hb⟩ := busRead_noDevice hw hdma hlatch s
  have hread : busRead (pageAddr page i) t = .ok b t := by
    rw [hcopied.eq_setPpu hs]
    exact hb _
  exact ⟨b, t, hread, hcopied.succ hi hread (hG b (hb s.ppu)), hs⟩

/-! ## Page 0x40 in tolerant mode -/

/-- Byte 0x14 of page 0x40 is an illegal read, and byte 0x16 the latch's, which moves CURSOR once. -/
structure LatchPageCopied (s : State) (n : Nat) (t : State) : Prop
    extends Copied (fun j b => j ≠ 0x14 → j ≠ 0x16 → b = 0x00) s n t where
  ppu    : (readChange s t).ppu = s.ppu
  cursor : t.cursor = if n ≤ 0x16 ∨ s.strobe = true ∨ 8 ≤ s.cursor then s.cursor else s.cursor + 1

namespace LatchPageCopied
variable {s t : State} {n : Nat}

theorem zero (s : State) : LatchPageCopied s 0 s := ⟨.zero _ s, rfl, (if_pos (.inl (by decide))).symm⟩

theorem succ (h : LatchPageCopied s n t) (hn : n < 256) (hm : s.config.busMode = .tolerant) :
    ∃ b u, busRead (pageAddr 0x40 n) t = .ok b u ∧ LatchPageCopied s (n + 1) (u.putOam b) := by
  have ha : (pageAddr 0x40 n).toNat = 0x4000 + n := toNat_pageAddr 0x40 hn
  have hcursor := h.cursor
  obtain ⟨hconfig, hstrobe, -, -⟩ := h.keeps
  by_cases hlatch : n = 0x16
  · subst hlatch
    rw [if_pos (.inl (Nat.le_refl _))] at hcursor
    obtain ⟨b, hb⟩ := latchRead_eq t
    have hread := (busRead_inputLatch t ha).trans hb
    refine ⟨b, _, hread, h.toCopied.succ hn hread fun _ hne => absurd rfl hne, h.ppu, ?_⟩
    show (if t.strobe = true ∨ 8 ≤ t.cursor then t.cursor else t.cursor + 1) = _
    simp [hstrobe, hcursor]
  simp only [show n ≤ 0x16 ↔ n + 1 ≤ 0x16 by omega] at hcursor
  by_cases hdma : n = 0x14
  · subst hdma
    have hread := (busRead_illegal (.inl ha) t).trans (illegalRead_tolerant _ (hconfig ▸ hm))
    exact ⟨_, _, hread, h.toCopied.succ hn hread fun hne => absurd rfl hne, h.ppu, hcursor⟩
  · have hread := busRead_unmapped t (busCell_unmapped (a := pageAddr 0x40 n) (by omega) (by omega) (by omega))
    exact ⟨_, _, hread, h.toCopied.succ hn hread fun _ _ => rfl, h.ppu, hcursor⟩

end LatchPageCopied

/-! ## A page of the PPU window in tolerant mode -/

theorem ppuCell_ne_missing {mir : Mirroring} (h : mir ≠ .fourScreen) (q : VAddr) : ppuCell mir q ≠ .missing := by
  unfold ppuCell
  split
  · nofun
  split
  · cases mir with
    | horizontal => rw [nametableCell_horizontal]; nofun
    | vertical => rw [nametableCell_vertical]; nofun
    | fourScreen => exact absurd rfl h
  · nofun

theorem ppuRead_completes {s : State} (h : s.ppu.mirroring ≠ .fourScreen) (q : VAddr) : ∃ b, ppuRead q s = .ok b s := by
  unfold ppuRead
  split
  · exact ⟨_, rfl⟩
  · exact ⟨_, rfl⟩
  · exact ⟨_, rfl⟩
  · next hcell => exact absurd hcell (ppuCell_ne_missing h q)

theorem dataRead_completes {s : State} (h : s.ppu.mirroring ≠ .fourScreen) : ∃ b t, dataRead s = .ok b t := by
  obtain ⟨b, hb⟩ := ppuRead_completes (s := s.setPpu s.ppu.increment) h s.ppu.vramAddr
  unfold dataRead
  simp only [hb, Access.bind_ok]
  split
  · exact ⟨_, _, rfl⟩
  · exact ⟨_, _, rfl⟩

/-- In tolerant mode every read of the window completes, but for the nametables that four-screen lacks. -/
theorem busRead_window_completes {a : Addr} (hw : 0x2000 ≤ a.toNat ∧ a.toNat < 0x4000) {s : State}
    (hm : s.config.busMode = .tolerant) (h : s.ppu.mirroring ≠ .fourScreen) : ∃ b t, busRead a s = .ok b t := by
  by_cases h2 : a.toNat % 8 = 2
  · exact ⟨_, _, busRead_status s hw h2⟩
  by_cases h4 : a.toNat % 8 = 4
  · exact ⟨_, _, busRead_oamData s hw h4⟩
  by_cases h7 : a.toNat % 8 = 7
  · rw [busRead_data s hw h7]
    exact dataRead_completes h
  · rw [busRead_illegal (.inr ⟨hw, by omega⟩)]
    exact ⟨_, _, illegalRead_tolerant a hm⟩

/-- What a read of the window does to CURSOR, PPUADDR, VBLANK and W, by its register (R86). -/
theorem window_read_effect {a : Addr} (hw : 0x2000 ≤ a.toNat ∧ a.toNat < 0x4000) {s t : State} {b : Byte}
    (h : busRead a s = .ok b t) :
    t.cursor = s.cursor ∧ t.ppu.vramAddr = s.ppu.vramAddr + (if a.toNat % 8 = 7 then s.ppu.step else 0) ∧
      (a.toNat % 8 = 2 → t.ppu.vblank = false ∧ t.ppu.w = false) ∧
      (a.toNat % 8 ≠ 2 → t.ppu.vblank = s.ppu.vblank ∧ t.ppu.w = s.ppu.w) := by
  obtain ⟨hstatus, hdata, -, hillegal, hother⟩ := Proofs.AddressMap.readSideEffects _ _ _ _ h
  by_cases h2 : a.toNat % 8 = 2
  · rw [hstatus ⟨hw, h2⟩, if_neg (by omega)]
    exact ⟨rfl, (BitVec.add_zero _).symm, fun _ => ⟨rfl, rfl⟩, fun hne => absurd h2 hne⟩
  by_cases h7 : a.toNat % 8 = 7
  · rw [hdata ⟨hw, h7⟩, if_pos h7]
    exact ⟨rfl, rfl, fun he => absurd he h2, fun _ => ⟨rfl, rfl⟩⟩
  rw [if_neg h7, add_zero]
  by_cases h4 : a.toNat % 8 = 4
  · rw [hother (.inl ⟨hw, h4⟩)]
    exact ⟨rfl, rfl, fun he => absurd he h2, fun _ => ⟨rfl, rfl⟩⟩
  · obtain ⟨-, ht⟩ := hillegal (.inr ⟨hw, by omega⟩)
    rw [ht]
    exact ⟨rfl, rfl, fun he => absurd he h2, fun _ => ⟨rfl, rfl⟩⟩

/-- Every eighth byte of a PPU page is a status read, and every eighth a data-port read. -/
structure WindowPageCopied (s : State) (n : Nat) (t : State) : Prop extends Copied (fun _ _ => True) s n t where
  cursor   : t.cursor = s.cursor
  vramAddr : t.ppu.vramAddr = s.ppu.vramAddr + BitVec.ofNat 14 (n / 8) * s.ppu.step
  status   : 2 < n → t.ppu.vblank = false ∧ t.ppu.w = false

namespace WindowPageCopied
variable {page : Byte} {s t : State} {n : Nat}

theorem zero (s : State) : WindowPageCopied s 0 s where
  toCopied := .zero _ s
  cursor := rfl
  vramAddr := by rw [Nat.zero_div, BitVec.zero_mul, BitVec.add_zero]
  status h := absurd h (by decide)

theorem succ (h : WindowPageCopied s n t) (hn : n < 256) (hpage : 0x20 ≤ page.toNat ∧ page.toNat < 0x40)
    (hm : s.config.busMode = .tolerant) (hmir : s.ppu.mirroring ≠ .fourScreen) :
    ∃ b u, busRead (pageAddr page n) t = .ok b u ∧ WindowPageCopied s (n + 1) (u.putOam b) := by
  have ha := toNat_pageAddr page hn
  have hw : 0x2000 ≤ (pageAddr page n).toNat ∧ (pageAddr page n).toNat < 0x4000 := by omega
  have hmod : (pageAddr page n).toNat % 8 = n % 8 := by omega
  obtain ⟨hconfig, -, hmirroring, hstep⟩ := h.keeps
  obtain ⟨b, u, hread⟩ := busRead_window_completes hw (hconfig ▸ hm) (hmirroring ▸ hmir)
  obtain ⟨hcursor, haddr, hcleared, hkept⟩ := window_read_effect hw hread
  rw [hmod] at haddr hcleared hkept
  refine ⟨b, u, hread, h.toCopied.succ hn hread trivial, hcursor.trans h.cursor, ?_, fun hlt => ?_⟩
  · show u.ppu.vramAddr = _
    rw [haddr, h.vramAddr, hstep]
    split
    · rw [show (n + 1) / 8 = n / 8 + 1 by omega, ← ofNat_add_one, add_mul, one_mul, add_assoc]
    · rw [show (n + 1) / 8 = n / 8 by omega, add_zero]
  · show u.ppu.vblank = false ∧ u.ppu.w = false
    by_cases h2 : n % 8 = 2
    · exact hcleared h2
    · obtain ⟨hvblank, hwrite⟩ := hkept h2
      rw [hvblank, hwrite]
      exact h.status (by omega)

end WindowPageCopied

/-! ## The whole copy, page by page -/

section pages
variable {page : Byte} {s : State}

/-- A page with no device is copied to OAMADDR on, and nothing else changes (R411). -/
theorem oamDma_plainPage (hpage : page.toNat < 0x20 ∨ 0x41 ≤ page.toNat) :
    ∃ oam, busWrite 0x4014 page s = .ok s.config.oamDmaStall { s with ppu := { s.ppu with oam := oam } } ∧
      ∀ i b : Byte, busRead (addr16 page i) s = .ok b s → oam.read (s.ppu.oamAddr + i).toNat = b := by
  have hlt := page.isLt
  obtain ⟨t, ⟨hcopied, hs⟩, hdone⟩ := oamDma_completes
    (R := fun n t => Copied (PageByte page s) s n t ∧ readChange s t = s) ⟨.zero _ s, rfl⟩ fun i t hi h => by
      have ha := toNat_pageAddr page hi
      refine copied_of_noDevice (page := page) hi (by omega) (by omega) (by omega) (fun b hb b' hb' => ?_) h
      cases hb.symm.trans hb'
      rfl
  refine ⟨t.ppu.oam, ?_, fun i b hb => hcopied.oam.copied i i.isLt b hb⟩
  have ht := hcopied.eq_setPpu hs
  rw [hcopied.oamAddr] at ht
  exact hdone.trans (congrArg _ ht)

/-- An unmapped page is copied as zeros (R88). -/
theorem oamDma_unmappedPage (hpage : 0x41 ≤ page.toNat ∧ page.toNat < 0x60) :
    ∃ oam, busWrite 0x4014 page s = .ok s.config.oamDmaStall { s with ppu := { s.ppu with oam := oam } } ∧
      ∀ k : Byte, oam.read k.toNat = 0x00 := by
  obtain ⟨oam, hdone, hbytes⟩ := oamDma_plainPage (s := s) (.inr hpage.1)
  refine ⟨oam, hdone, fun k => ?_⟩
  have hi := (k - s.ppu.oamAddr).isLt
  have ha := toNat_addr16 page (k - s.ppu.oamAddr)
  have hcell : busCell (addr16 page (k - s.ppu.oamAddr)) = .unmapped :=
    busCell_unmapped (by omega) (by omega) (by omega)
  have hzero := hbytes _ _ (busRead_unmapped s hcell)
  rwa [BitVec.add_comm, BitVec.sub_add_cancel] at hzero

/-- A page of the PPU window faults at its first byte in strict mode: PPUCTRL cannot be read (R93). -/
theorem oamDma_strictWindow (hpage : 0x20 ≤ page.toNat ∧ page.toNat < 0x40) (hm : s.config.busMode = .strict) :
    busWrite 0x4014 page s = .fault (raise (.illegalAccess (pageAddr page 0) .read) s) := by
  have ha := toNat_pageAddr page (show 0 < 256 by decide)
  have hread : busRead (pageAddr page 0) s = illegalRead (pageAddr page 0) s :=
    busRead_illegal (.inr ⟨by omega, by omega⟩) s
  exact busWrite_oamDma_fault (oamCopy_fault (n := 255) (i := 0) (hread.trans (illegalRead_strict _ hm)))

/-- Page 0x40 faults at 0x4014 in strict mode, after 0x14 zeros. -/
theorem oamDma_strictLatchPage (hm : s.config.busMode = .strict) :
    ∃ oam, busWrite 0x4014 0x40 s = .fault (raise (.illegalAccess 0x4014 .read)
        { s with ppu := { s.ppu with oam := oam, oamAddr := s.ppu.oamAddr + 0x14 } }) ∧
      ∀ i : Byte, oam.read (s.ppu.oamAddr + i).toNat =
        if i.toNat < 0x14 then 0x00 else s.ppu.oam.read (s.ppu.oamAddr + i).toNat := by
  obtain ⟨t, ⟨hcopied, hs⟩, hstop⟩ := oamDma_faults (page := 0x40) (n := 0x14)
    (R := fun n t => Copied (fun _ b => b = 0x00) s n t ∧ readChange s t = s)
    ⟨.zero _ s, rfl⟩ (by decide) fun i t hi h => by
      have ha : (pageAddr 0x40 i).toNat = 0x4000 + i := toNat_pageAddr 0x40 (by omega)
      refine copied_of_noDevice (by omega) (by omega) (by omega) (by omega) (fun b hb => ?_) h
      rw [busRead_unmapped s (busCell_unmapped (by omega) (by omega) (by omega))] at hb
      cases hb
      rfl
  have ht := hcopied.eq_setPpu hs
  rw [hcopied.oam.addr] at ht
  refine ⟨t.ppu.oam, ?_, fun i => ?_⟩
  · have hread : busRead (pageAddr 0x40 0x14) t = illegalRead 0x4014 t := busRead_illegal (.inl rfl) t
    rw [hstop _ (hread.trans (illegalRead_strict _ (hcopied.keeps.1 ▸ hm))), ht]
    rfl
  · split
    · next hlt => exact hcopied.oam.copied i hlt
    · next hge => exact hcopied.oam.kept i (by omega)

/-- Page 0x40 completes in tolerant mode, with the latch read once. -/
theorem oamDma_tolerantLatchPage (hm : s.config.busMode = .tolerant) :
    ∃ oam draws, busWrite 0x4014 0x40 s = .ok s.config.oamDmaStall { s with
        draws := draws
        cursor := if s.strobe = true ∨ 8 ≤ s.cursor then s.cursor else s.cursor + 1
        ppu := { s.ppu with oam := oam } } ∧
      ∀ i : Byte, i ≠ 0x14 → i ≠ 0x16 → oam.read (s.ppu.oamAddr + i).toNat = 0x00 := by
  obtain ⟨t, h, hdone⟩ := oamDma_completes (LatchPageCopied.zero s) fun i t hi h => h.succ hi hm
  refine ⟨t.ppu.oam, t.draws, ?_, fun i => h.oam.copied i i.isLt⟩
  have hcursor : t.cursor = if s.strobe = true ∨ 8 ≤ s.cursor then s.cursor else s.cursor + 1 := by
    simpa using h.cursor
  have hframe : t = { s with
      draws := t.draws, cursor := t.cursor
      ppu := { (readChange s t).ppu with oam := t.ppu.oam, oamAddr := t.ppu.oamAddr } } := h.frame
  rw [h.ppu, h.oamAddr, hcursor] at hframe
  exact hdone.trans (congrArg _ hframe)

/-- A page of the PPU window completes in tolerant mode, but for four-screen: 32 reads of the status clear VBLANK and
W, and 32 of the data port advance PPUADDR. -/
theorem oamDma_tolerantWindow (hpage : 0x20 ≤ page.toNat ∧ page.toNat < 0x40) (hm : s.config.busMode = .tolerant)
    (hmir : s.ppu.mirroring ≠ .fourScreen) :
    ∃ oam readBuf draws, busWrite 0x4014 page s = .ok s.config.oamDmaStall { s with
      draws := draws
      ppu := { s.ppu with
        oam := oam, readBuf := readBuf, vblank := false, w := false
        vramAddr := s.ppu.vramAddr + 32 * s.ppu.step } } := by
  obtain ⟨t, h, hdone⟩ := oamDma_completes (WindowPageCopied.zero s) fun i t hi h => h.succ hi hpage hm hmir
  obtain ⟨hvblank, hw⟩ := h.status (by decide)
  have hframe : t = { s with
      draws := t.draws, cursor := t.cursor
      ppu := { s.ppu with
        vblank := t.ppu.vblank, w := t.ppu.w, vramAddr := t.ppu.vramAddr, readBuf := t.ppu.readBuf
        oam := t.ppu.oam, oamAddr := t.ppu.oamAddr } } := h.frame
  rw [hvblank, hw, h.vramAddr, h.cursor, h.oamAddr] at hframe
  exact ⟨t.ppu.oam, t.ppu.readBuf, t.draws, hdone.trans (congrArg _ hframe)⟩

end pages

end Sys2Proof.Machine

namespace Sys2Proof.Proofs.OamDma
open Sys2Proof.Machine

/-- Settles O59: the copy's induction over the states given, then the pages one by one. -/
theorem oamDma : Obligations.OamDma := by
  intro v s
  refine ⟨fun n b before after _ h0 hsteps => ?_, oamDma_plainPage, oamDma_unmappedPage,
    fun hm => ⟨fun hpage => oamDma_strictWindow hpage hm, ?_⟩,
    fun hm => ⟨fun hpage hmir => oamDma_tolerantWindow hpage hm hmir, ?_⟩⟩
  · have step : ∀ i t, i < n → t = before i →
        ∃ c u, busRead (pageAddr v i) t = .ok c u ∧ u.putOam c = before (i + 1) := by
      rintro i t hi rfl
      obtain ⟨hread, hnext⟩ := hsteps i hi
      exact ⟨b i, after i, hread, hnext.symm⟩
    refine ⟨fun hn => ?_, fun f hn hf => ?_⟩
    · subst hn
      obtain ⟨t, rfl, hdone⟩ := oamDma_completes (R := fun i t => t = before i) h0.symm step
      exact hdone
    · obtain ⟨t, rfl, hstop⟩ := oamDma_faults (R := fun i t => t = before i) h0.symm hn step
      exact hstop f hf
  · rintro rfl
    exact oamDma_strictLatchPage hm
  · rintro rfl
    exact oamDma_tolerantLatchPage hm

end Sys2Proof.Proofs.OamDma
end

section
/-! The decoder and the encoder as each other's inverse (O1, O2, O4), and the codes of the Opcode Table (O3, O5). An
instruction and a table entry are tied by `Instr.OfEntry`: every well-formed instruction has its entry, from which its
operand bytes assemble it again, and every entry assembles an instruction of its own from any operand bytes. -/

namespace Sys2Proof
open Machine

/-! ## The codes of the Opcode Table (R146, R147, R150) -/

/-- The 256 codes in order (R146). -/
def allCodes : List Byte := (List.range 256).map (BitVec.ofNat 8)

/-- The table's codes in order are the 256 codes without the absent ones: each has one entry. -/
theorem opcodeTable_codes :
    opcodeTable.map Entry.code = allCodes.filter (· ∉ absentCodes) := by
  decide +kernel

/-- The modes of the table are those of the grids, and an operation in a mode has one code, but for the NOPs of R360. -/
theorem opcodeTable_forms : ∀ e ∈ opcodeTable,
    e.mode ∈ e.op.modes ∧
      if e.op = .nopUndoc then e.code ∈ nopUndocCodes e.mode else entryOf e.op e.mode = some e := by
  decide +kernel

theorem mem_allCodes (c : Byte) : c ∈ allCodes :=
  List.mem_map.2 ⟨c.toNat, List.mem_range.2 c.isLt, by simp⟩

theorem nodup_allCodes : allCodes.Nodup :=
  List.nodup_range.map_on fun m hm n hn h => by
    rw [List.mem_range] at hm hn
    simpa [Nat.mod_eq_of_lt, hm, hn] using congrArg BitVec.toNat h

theorem lookup_mem {c : Byte} {e : Entry} (h : lookup c = some e) : e ∈ opcodeTable := List.mem_of_find?_eq_some h

theorem lookup_of_mem {e : Entry} (h : e ∈ opcodeTable) : lookup e.code = some e := by
  have hfound : (lookup e.code).isSome = true := List.find?_isSome.2 ⟨e, h, beq_self_eq_true _⟩
  obtain ⟨e', he'⟩ := Option.isSome_iff_exists.1 hfound
  have hnodup : (opcodeTable.map Entry.code).Nodup := opcodeTable_codes ▸ nodup_allCodes.filter _
  rwa [List.inj_on_of_nodup_map hnodup (lookup_mem he') h (lookup_code he')] at he'

theorem lookup_eq_none_iff {c : Byte} : lookup c = none ↔ c ∈ absentCodes := by
  refine ⟨fun hnone => ?_, fun h => lookup_absent c (List.contains_iff_mem.2 h)⟩
  by_contra h
  have hmem : c ∈ opcodeTable.map Entry.code := by
    rw [opcodeTable_codes]
    exact List.mem_filter.2 ⟨mem_allCodes c, by simpa using h⟩
  obtain ⟨e, he, rfl⟩ := List.mem_map.1 hmem
  rw [lookup_of_mem he] at hnone
  cases hnone

theorem populated_of_lookup (cfg : Config) {c : Byte} {e : Entry} (h : lookup c = some e) :
    populated cfg c = (e.op.documented || cfg.undocEnabled) := by
  simp only [populated, h]

theorem populated_of_absent (cfg : Config) {c : Byte} (h : c ∈ absentCodes) : populated cfg c = false := by
  simp only [populated, lookup_eq_none_iff.2 h]

/-- The populated codes are counted by their entries. -/
theorem populated_count (cfg : Config) :
    ((List.range 256).filter fun n => populated cfg (BitVec.ofNat 8 n)).length =
      (opcodeTable.filter fun e => e.op.documented || cfg.undocEnabled).length := by
  have habsent : ∀ c : Byte, populated cfg c = (populated cfg c && decide (c ∉ absentCodes)) := fun c => by
    by_cases h : c ∈ absentCodes
    · simp [populated_of_absent cfg h]
    · simp [h]
  calc ((List.range 256).filter fun n => populated cfg (BitVec.ofNat 8 n)).length
      = (allCodes.filter (populated cfg)).length := by
        rw [allCodes, List.filter_map, List.length_map]; rfl
    _ = ((opcodeTable.map Entry.code).filter (populated cfg)).length := by
        rw [opcodeTable_codes, List.filter_filter, ← funext habsent]
    _ = (opcodeTable.filter (populated cfg ∘ Entry.code)).length := by
        rw [List.filter_map, List.length_map]
    _ = _ := congrArg List.length (List.filter_congr fun e he => populated_of_lookup cfg (lookup_of_mem he))

/-! ## An instruction and its entry -/

/-- `i` is an instruction of the entry `e`: the entry's operation in its mode, with its code. -/
structure Instr.OfEntry (i : Instr) (e : Entry) : Prop where
  op   : i.op = some e.op
  mode : i.mode = e.mode
  code : i.code = e.code

/-- `CodeRow` for every instruction. -/
theorem codeRow (i : Instr) : Laws.CodeRow.Statement i := by
  cases i with
  | nopUndoc code o => exact Laws.CodeRow.nopUndoc code o
  | undefined code => exact Laws.CodeRow.undefined code
  | _ => exact fun h => lookup_form rfl h rfl

theorem exists_ofEntry {i : Instr} {op : Op} (h : i.wellFormed = true) (hop : i.op = some op) :
    ∃ e, lookup i.code = some e ∧ i.OfEntry e := by
  have hrow := codeRow i h
  rw [hop] at hrow
  obtain ⟨e, he, rfl, hmode⟩ := hrow
  exact ⟨e, he, hop, hmode.symm, (lookup_code he).symm⟩

/-- The code of an instruction that carries none (R146). -/
theorem code_of_op {i : Instr} {op : Op} (hop : i.op = some op) (hne : op ≠ .nopUndoc) :
    i.code = ((entryOf op i.mode).map Entry.code).getD 0x02 := by
  have hcode : i.code = ((i.op.bind fun op => entryOf op i.mode).map Entry.code).getD 0x02 := by
    cases i with
    | nopUndoc c o => exact absurd (Option.some.inj hop).symm hne
    | undefined c => cases hop
    | _ => rfl
  rw [hcode, hop, Option.bind_some]

theorem wellFormed_of_ofEntry {i : Instr} {e : Entry} (h : i.OfEntry e) (he : e ∈ opcodeTable) :
    i.wellFormed = true := by
  obtain ⟨hmode, hcode⟩ := opcodeTable_forms e he
  have hform : i.formExists = true := by
    simpa [Instr.formExists, h.op, h.mode] using hmode
  have hcarried : i.codeExists = true := by
    cases i with
    | nopUndoc c o =>
      have hop : e.op = .nopUndoc := (Option.some.inj h.op).symm
      rw [if_pos hop, ← h.code, ← h.mode] at hcode
      exact List.contains_iff_mem.2 hcode
    | undefined c => cases h.op
    | _ => rfl
  rw [Instr.wellFormed, hform, hcarried, Bool.and_self]

/-! ## Operand bytes (R141 to R145) -/

theorem ShiftOperand.length_bytes (o : ShiftOperand) : o.mode.length = o.bytes.length + 1 := by
  cases o with
  | acc => rfl
  | mem m => exact MemOperand.length_bytes m

theorem NopOperand.length_bytes (o : NopOperand) : o.mode.length = o.bytes.length + 1 := by
  cases o with
  | implied => rfl
  | read o => exact Source.length_bytes o

/-- The length of an instruction's mode is that of its encoding. -/
theorem length_encode (i : Instr) : (encode i).length = i.mode.length := by
  cases i with
  | lda o | ldx o | ldy o | adc o | sbc o | and o | ora o | eor o | cmp o | cpx o | cpy o =>
    exact (Source.length_bytes o).symm
  | sta m | stx m | sty m | bit m | inc m | dec m | lax m | sax m | slo m | rla m | sre m | rra m | dcp m | isb m =>
    exact (MemOperand.length_bytes m).symm
  | asl o | lsr o | rol o | ror o => exact (ShiftOperand.length_bytes o).symm
  | nopUndoc c o => exact (NopOperand.length_bytes o).symm
  | _ => rfl

/-! ### An operand from its own bytes -/

theorem memOperand_bytes (m : MemOperand) : memOperand m.mode (m.bytes.getD 0 0) (m.bytes.getD 1 0) = some m := by
  cases m with
  | abs a | absX a | absY a => simp [MemOperand.mode, MemOperand.bytes, memOperand]
  | _ => rfl

theorem sourceOperand_of_mem (m : MemOperand) (b1 b2 : Byte) :
    sourceOperand m.mode b1 b2 = (memOperand m.mode b1 b2).map .mem := by
  cases m <;> rfl

theorem sourceOperand_bytes (o : Source) :
    sourceOperand o.mode (o.bytes.getD 0 0) (o.bytes.getD 1 0) = some o := by
  cases o with
  | imm v => rfl
  | mem m => exact (sourceOperand_of_mem m _ _).trans (congrArg (Option.map Source.mem) (memOperand_bytes m))

theorem shiftOperand_of_mem (m : MemOperand) (b1 b2 : Byte) :
    shiftOperand m.mode b1 b2 = (memOperand m.mode b1 b2).map .mem := by
  cases m <;> rfl

theorem shiftOperand_bytes (o : ShiftOperand) :
    shiftOperand o.mode (o.bytes.getD 0 0) (o.bytes.getD 1 0) = some o := by
  cases o with
  | acc => rfl
  | mem m => exact (shiftOperand_of_mem m _ _).trans (congrArg (Option.map ShiftOperand.mem) (memOperand_bytes m))

theorem nopOperand_of_source (o : Source) (b1 b2 : Byte) :
    nopOperand o.mode b1 b2 = (sourceOperand o.mode b1 b2).map .read := by
  cases o with
  | imm v => rfl
  | mem m => cases m <;> rfl

theorem nopOperand_bytes (o : NopOperand) :
    nopOperand o.mode (o.bytes.getD 0 0) (o.bytes.getD 1 0) = some o := by
  cases o with
  | implied => rfl
  | read o => exact (nopOperand_of_source o _ _).trans (congrArg (Option.map NopOperand.read) (sourceOperand_bytes o))

/-- An entry assembles each of its instructions from that instruction's operand bytes. -/
theorem assemble_operandBytes {i : Instr} {e : Entry} (h : i.OfEntry e) :
    e.assemble (i.operandBytes.getD 0 0) (i.operandBytes.getD 1 0) = some i := by
  obtain ⟨hop, hmode, hcode⟩ := h
  obtain ⟨code, op, mode, cycles, penalty⟩ := e
  subst hmode hcode
  cases i with
  | lda o | ldx o | ldy o | adc o | sbc o | and o | ora o | eor o | cmp o | cpx o | cpy o =>
    cases hop
    exact congrArg (Option.map _) (sourceOperand_bytes o)
  | sta m | stx m | sty m | bit m | inc m | dec m | lax m | sax m | slo m | rla m | sre m | rra m | dcp m | isb m =>
    cases hop
    exact congrArg (Option.map _) (memOperand_bytes m)
  | asl o | lsr o | rol o | ror o =>
    cases hop
    exact congrArg (Option.map _) (shiftOperand_bytes o)
  | nopUndoc c o =>
    cases hop
    exact congrArg (Option.map _) (nopOperand_bytes o)
  | jmp a | jmpInd a | jsr a =>
    cases hop
    simp [Entry.assemble, Instr.mode, Instr.operandBytes]
  | undefined c => cases hop
  | _ =>
    cases hop
    rfl

/-! ### An operand from any bytes -/

/-- The modes that name a memory location (R145). -/
def memoryModes : List Mode :=
  [.zeroPage, .zeroPageX, .zeroPageY, .absolute, .absoluteX, .absoluteY, .indirectX, .indirectY]

section operands
variable {m : Mode} {l : List Byte} (hl : l.length + 1 = m.length)
include hl

theorem memOperand_exists (hm : m ∈ memoryModes) :
    ∃ o, memOperand m (l.getD 0 0) (l.getD 1 0) = some o ∧ o.mode = m ∧ o.bytes = l := by
  cases m with
  | zeroPage | zeroPageX | zeroPageY | indirectX | indirectY =>
    obtain ⟨b, rfl⟩ := List.length_eq_one_iff.1 (Nat.succ.inj hl)
    exact ⟨_, rfl, rfl, rfl⟩
  | absolute | absoluteX | absoluteY =>
    obtain ⟨lo, hi, rfl⟩ := List.length_eq_two.1 (Nat.succ.inj hl)
    exact ⟨_, rfl, rfl, by simp [MemOperand.bytes]⟩
  | implied | accumulator | immediate | indirect | relative => simp [memoryModes] at hm

theorem sourceOperand_exists (hm : m ∈ .immediate :: memoryModes) :
    ∃ o, sourceOperand m (l.getD 0 0) (l.getD 1 0) = some o ∧ o.mode = m ∧ o.bytes = l := by
  obtain rfl | hm := List.mem_cons.1 hm
  · obtain ⟨b, rfl⟩ := List.length_eq_one_iff.1 (Nat.succ.inj hl)
    exact ⟨_, rfl, rfl, rfl⟩
  · obtain ⟨o, ho, rfl, hbytes⟩ := memOperand_exists hl hm
    exact ⟨.mem o, by rw [sourceOperand_of_mem, ho]; rfl, rfl, hbytes⟩

theorem shiftOperand_exists (hm : m ∈ .accumulator :: memoryModes) :
    ∃ o, shiftOperand m (l.getD 0 0) (l.getD 1 0) = some o ∧ o.mode = m ∧ o.bytes = l := by
  obtain rfl | hm := List.mem_cons.1 hm
  · obtain rfl := List.length_eq_zero_iff.1 (Nat.succ.inj hl)
    exact ⟨_, rfl, rfl, rfl⟩
  · obtain ⟨o, ho, rfl, hbytes⟩ := memOperand_exists hl hm
    exact ⟨.mem o, by rw [shiftOperand_of_mem, ho]; rfl, rfl, hbytes⟩

theorem nopOperand_exists (hm : m ∈ .implied :: .immediate :: memoryModes) :
    ∃ o, nopOperand m (l.getD 0 0) (l.getD 1 0) = some o ∧ o.mode = m ∧ o.bytes = l := by
  obtain rfl | hm := List.mem_cons.1 hm
  · obtain rfl := List.length_eq_zero_iff.1 (Nat.succ.inj hl)
    exact ⟨_, rfl, rfl, rfl⟩
  · obtain ⟨o, ho, rfl, hbytes⟩ := sourceOperand_exists hl hm
    exact ⟨.read o, by rw [nopOperand_of_source, ho]; rfl, rfl, hbytes⟩

end operands

/-- An entry assembles an instruction of its own from any operand bytes, and they are that instruction's. -/
theorem assemble_exists {e : Entry} (hm : e.mode ∈ e.op.modes) {l : List Byte} (hl : l.length + 1 = e.mode.length) :
    ∃ i, e.assemble (l.getD 0 0) (l.getD 1 0) = some i ∧ i.op = some e.op ∧ i.mode = e.mode ∧ i.operandBytes = l ∧
      (e.op = .nopUndoc → i.code = e.code) := by
  obtain ⟨code, op, mode, cycles, penalty⟩ := e
  simp only at hl hm ⊢
  cases op with
  | lda | ldx | ldy | adc | sbc | and | ora | eor | cmp | cpx | cpy =>
    have hsub := (show ∀ m ∈ Op.modes _, m ∈ .immediate :: memoryModes by decide) _ hm
    obtain ⟨o, ho, hmode, hbytes⟩ := sourceOperand_exists hl hsub
    exact ⟨_, congrArg (Option.map _) ho, rfl, hmode, hbytes, nofun⟩
  | sta | stx | sty | bit | inc | dec | lax | sax | slo | rla | sre | rra | dcp | isb =>
    have hsub := (show ∀ m ∈ Op.modes _, m ∈ memoryModes by decide) _ hm
    obtain ⟨o, ho, hmode, hbytes⟩ := memOperand_exists hl hsub
    exact ⟨_, congrArg (Option.map _) ho, rfl, hmode, hbytes, nofun⟩
  | asl | lsr | rol | ror =>
    have hsub := (show ∀ m ∈ Op.modes _, m ∈ .accumulator :: memoryModes by decide) _ hm
    obtain ⟨o, ho, hmode, hbytes⟩ := shiftOperand_exists hl hsub
    exact ⟨_, congrArg (Option.map _) ho, rfl, hmode, hbytes, nofun⟩
  | nopUndoc =>
    have hsub := (show ∀ m ∈ Op.modes _, m ∈ .implied :: .immediate :: memoryModes by decide) _ hm
    obtain ⟨o, ho, hmode, hbytes⟩ := nopOperand_exists hl hsub
    exact ⟨_, congrArg (Option.map _) ho, rfl, hmode, hbytes, fun _ => rfl⟩
  | jmp =>
    obtain rfl | rfl : mode = .absolute ∨ mode = .indirect := by simpa [Op.modes] using hm
    all_goals
      obtain ⟨lo, hi, rfl⟩ := List.length_eq_two.1 (Nat.succ.inj hl)
      exact ⟨_, rfl, rfl, rfl, by simp [Instr.operandBytes], nofun⟩
  | jsr =>
    obtain rfl := List.mem_singleton.1 hm
    obtain ⟨lo, hi, rfl⟩ := List.length_eq_two.1 (Nat.succ.inj hl)
    exact ⟨_, rfl, rfl, rfl, by simp [Instr.operandBytes], nofun⟩
  | bpl | bmi | bvc | bvs | bcc | bcs | bne | beq | sbcUndoc =>
    obtain rfl := List.mem_singleton.1 hm
    obtain ⟨b, rfl⟩ := List.length_eq_one_iff.1 (Nat.succ.inj hl)
    exact ⟨_, rfl, rfl, rfl, rfl, nofun⟩
  | _ =>
    obtain rfl := List.mem_singleton.1 hm
    obtain rfl := List.length_eq_zero_iff.1 (Nat.succ.inj hl)
    exact ⟨_, rfl, rfl, rfl, rfl, nofun⟩

theorem assemble_ofEntry {e : Entry} (he : e ∈ opcodeTable) {l : List Byte} (hl : l.length + 1 = e.mode.length) :
    ∃ i, e.assemble (l.getD 0 0) (l.getD 1 0) = some i ∧ i.OfEntry e ∧ i.operandBytes = l := by
  obtain ⟨hform, hcode⟩ := opcodeTable_forms e he
  obtain ⟨i, hi, hop, hmode, hbytes, hcarried⟩ := assemble_exists hform hl
  refine ⟨i, hi, ⟨hop, hmode, ?_⟩, hbytes⟩
  by_cases hnop : e.op = .nopUndoc
  · exact hcarried hnop
  · rw [if_neg hnop] at hcode
    rw [code_of_op hop hnop, hmode, hcode]
    rfl

/-! ## The decoder (R140) -/

theorem codeLength_of_lookup {c : Byte} {e : Entry} (h : lookup c = some e) : codeLength c = e.mode.length := by
  simp [codeLength, h]

theorem codeLength_of_absent {c : Byte} (h : lookup c = none) : codeLength c = 1 := by
  simp [codeLength, h]

theorem decodeBytes_of_absent {c : Byte} (h : lookup c = none) (b1 b2 : Byte) : decodeBytes c b1 b2 = .undefined c := by
  simp [decodeBytes, h]

theorem decodeBytes_of_lookup {c : Byte} {e : Entry} (h : lookup c = some e) {b1 b2 : Byte} {i : Instr}
    (hi : e.assemble b1 b2 = some i) : decodeBytes c b1 b2 = i := by
  simp [decodeBytes, h, hi]

theorem codeLength_cases (c : Byte) : codeLength c = 1 ∨ codeLength c = 2 ∨ codeLength c = 3 := by
  cases h : lookup c with
  | none => exact .inl (codeLength_of_absent h)
  | some e =>
    rw [codeLength_of_lookup h]
    cases e.mode <;> decide

/-- With exactly its operand bytes before the rest, a code decodes to the instruction of those bytes. -/
theorem decode_append {c : Byte} {l : List Byte} (h : l.length + 1 = codeLength c) (rest : List Byte) :
    decode (c :: (l ++ rest)) = .ok (decodeBytes c (l.getD 0 0) (l.getD 1 0), rest) := by
  have hlen := codeLength_cases c
  match l with
  | [] | [b1] | [b1, b2] =>
    simp [decode, ← h]
  | b1 :: b2 :: b3 :: l' =>
    simp only [List.length_cons] at h
    omega

theorem decode_truncated {c : Byte} {rest : List Byte} (h : rest.length < codeLength c - 1) :
    decode (c :: rest) = .error (.truncated c (codeLength c)) := by
  obtain hlen | hlen | hlen := codeLength_cases c <;> rw [hlen] at h
  · exact absurd h (Nat.not_lt_zero _)
  · match rest with
    | [] => simp [decode, hlen]
  · match rest with
    | [] | [_] => simp [decode, hlen]

/-- Enough bytes are a code's operand bytes and the rest. -/
theorem exists_operands {c : Byte} {bytes : List Byte} (h : codeLength c - 1 ≤ bytes.length) :
    ∃ l, l.length + 1 = codeLength c ∧ l ++ bytes.drop (codeLength c - 1) = bytes := by
  have hlen := codeLength_cases c
  refine ⟨bytes.take (codeLength c - 1), ?_, List.take_append_drop ..⟩
  rw [List.length_take]
  omega

/-- Whatever decodes has all its operand bytes. -/
theorem decode_eq_ok {bytes rest : List Byte} {i : Instr} (h : decode bytes = .ok (i, rest)) :
    ∃ c l, l.length + 1 = codeLength c ∧ bytes = c :: (l ++ rest) ∧ i = decodeBytes c (l.getD 0 0) (l.getD 1 0) := by
  cases bytes with
  | nil => cases h
  | cons c bytes =>
    obtain hshort | henough := Nat.lt_or_ge bytes.length (codeLength c - 1)
    · rw [decode_truncated hshort] at h
      cases h
    · obtain ⟨l, hlen, hbytes⟩ := exists_operands henough
      have hdecode := decode_append hlen (bytes.drop (codeLength c - 1))
      rw [hbytes, h] at hdecode
      cases hdecode
      exact ⟨c, l, hlen, by rw [hbytes], rfl⟩

/-- The instruction of a code and its operand bytes is well-formed and encodes to them. -/
theorem encode_decodeBytes {c : Byte} {l : List Byte} (h : l.length + 1 = codeLength c) :
    (decodeBytes c (l.getD 0 0) (l.getD 1 0)).wellFormed = true ∧
      encode (decodeBytes c (l.getD 0 0) (l.getD 1 0)) = c :: l := by
  cases hc : lookup c with
  | none =>
    rw [codeLength_of_absent hc] at h
    obtain rfl := List.length_eq_zero_iff.1 (Nat.succ.inj h)
    rw [decodeBytes_of_absent hc]
    exact ⟨List.contains_iff_mem.2 (lookup_eq_none_iff.1 hc), rfl⟩
  | some e =>
    rw [codeLength_of_lookup hc] at h
    obtain ⟨i, hi, hentry, hbytes⟩ := assemble_ofEntry (lookup_mem hc) h
    rw [decodeBytes_of_lookup hc hi, encode, hentry.code, hbytes, lookup_code hc]
    exact ⟨wellFormed_of_ofEntry hentry (lookup_mem hc), rfl⟩

/-- A well-formed instruction's code and operand bytes make that instruction. -/
theorem decodeBytes_encode {i : Instr} (h : i.wellFormed = true) :
    i.operandBytes.length + 1 = codeLength i.code ∧
      decodeBytes i.code (i.operandBytes.getD 0 0) (i.operandBytes.getD 1 0) = i := by
  cases hop : i.op with
  | none =>
    have hnone := codeRow i h
    rw [hop] at hnone
    cases i with
    | undefined c =>
      exact ⟨(codeLength_of_absent hnone).symm, decodeBytes_of_absent hnone _ _⟩
    | _ => cases hop
  | some op =>
    obtain ⟨e, he, hentry⟩ := exists_ofEntry h hop
    refine ⟨?_, decodeBytes_of_lookup he (assemble_operandBytes hentry)⟩
    rw [codeLength_of_lookup he, ← hentry.mode, ← length_encode]
    rfl

end Sys2Proof

namespace Sys2Proof.Proofs.Encoding
open Sys2Proof.Machine

/-- Settles O1: the operand bytes are as many as the code's length, so the decoder takes exactly them, and the table
entry assembles the instruction from them. -/
theorem decodeOfEncode : Obligations.DecodeOfEncode := fun i rest h => by
  obtain ⟨hlen, hdecoded⟩ := decodeBytes_encode h
  rw [encode, List.cons_append, decode_append hlen, hdecoded]

/-- Settles O2: what decodes is the instruction of a code and its operand bytes, which encodes to them. -/
theorem encodeOfDecode : Obligations.EncodeOfDecode := fun bytes i rest h => by
  obtain ⟨c, l, hlen, rfl, rfl⟩ := decode_eq_ok h
  obtain ⟨hwell, hencode⟩ := encode_decodeBytes hlen
  exact ⟨hwell, by rw [hencode, List.cons_append]⟩

/-- Settles O4: the operand bytes are taken off the bytes that follow, or these are too few. -/
theorem opcodeGivesLength : Obligations.OpcodeGivesLength := fun code rest => by
  refine ⟨codeLength_cases code, fun henough => ?_, decode_truncated⟩
  obtain ⟨l, hlen, hrest⟩ := exists_operands henough
  have hdecode := decode_append hlen (rest.drop (codeLength code - 1))
  rw [hrest] at hdecode
  exact ⟨_, hdecode, by rw [(encode_decodeBytes hlen).2, List.length_cons, hlen]⟩

/-- Settles O3: one word of each format and shape. -/
theorem specWordsDecode : Obligations.SpecWordsDecode := by
  unfold Obligations.SpecWordsDecode
  decide

/-- Settles O5: the populated codes are those of the table's entries, all of them or the documented ones. -/
theorem populatedCodes : Obligations.PopulatedCodes := by
  refine ⟨fun _ => lookup_eq_none_iff, fun cfg => ?_⟩
  rw [populated_count]
  cases cfg.undocEnabled <;> rfl

end Sys2Proof.Proofs.Encoding
end

section
/-! The faults of the fetch (O18): the fetch by what its reads answer, one lemma per read. -/

namespace Sys2Proof.Machine

theorem step_fetch {s : State} (hrun : s.run = .running) (hnmi : s.ppu.nmiPending = false) :
    step s = (fetch (s.setReport false false)).andThen exec := by
  simp [step_running hrun, runStep, hnmi]

/-- A read that faults leaves PC (R386). -/
theorem busRead_fault_pc {a : Addr} {s : State} {f : Fault} (h : busRead a s = .fault f) : f.left.pc = s.pc := by
  obtain ⟨u, i, hu, rfl⟩ := ((keptByBus_sameCpu s).read a (.rfl' s)).of_fault h
  rw [left_raise, State.setRun_pc, hu.pc]

/-! ## The operand reads (R173, R387) -/

section operands
variable {s t : State} {f : Fault}

theorem fetchOperands_fault_first {n : Nat} (hn : 1 ≤ n) (h : busRead s.pc s = .fault f) :
    fetchOperands n s = .fault f := by
  match n with
  | 1 | n + 2 => simp [fetchOperands, h]

theorem fetchOperands_fault_second {b : Byte} (h1 : busRead s.pc s = .ok b t) (h2 : busRead (s.pc + 1) t = .fault f) :
    fetchOperands 2 s = .fault f := by
  simp only [fetchOperands, h1, Access.bind_ok, h2, Access.bind_fault]

end operands

/-! ## The fetch -/

section fetch
variable {s t : State} {code : Byte} {f : Fault}

theorem fetch_fault_opcode (h : busRead s.pc s = .fault f) : fetch s = .fault f := by
  simp only [fetch, h, Access.bind_fault]

theorem fetch_fault_operands (h : busRead s.pc s = .ok code t)
    (hf : fetchOperands (operandCount t.config code) (t.setPc (s.pc + 1)) = .fault f) : fetch s = .fault f := by
  simp only [fetch, h, Access.bind_ok, hf, Access.bind_fault]

/-- A code that is not populated is fetched with no operand read (R172). -/
theorem fetch_unpopulated (h : busRead s.pc s = .ok code t) (hp : populated t.config code = false) :
    fetch s = .ok (.undefined code) (t.setPc (s.pc + 1)) := by
  simp [fetch, h, operandCount, fetchOperands, fetchedInstr, hp]

theorem operandCount_of_populated {cfg : Config} {e : Entry} (h : lookup code = some e)
    (hp : e.op.documented = true ∨ cfg.undocEnabled = true) : operandCount cfg code = e.mode.length - 1 := by
  have hpop : populated cfg code = true := by
    rw [populated_of_lookup cfg h]
    simpa using hp
  rw [operandCount, if_pos hpop, codeLength_of_lookup h]

end fetch

/-- The meaning of a code with no entry (R150, R381). -/
theorem exec_undefined (code : Byte) (s : State) :
    exec (.undefined code) s = .fault (raise (.undefinedOpcode code (s.pc - 1)) s) := rfl

end Sys2Proof.Machine

namespace Sys2Proof.Proofs.FetchFaults
open Sys2Proof.Machine

/-- Settles O18: the step is the fetch, which stops at the read that faults. -/
theorem fetchFaults : Obligations.FetchFaults := by
  refine ⟨fun s t code hrun hnmi hread hcode => ?_, fun s f hrun hnmi hread => ?_,
    fun s u code e hrun hnmi hread hentry hpop => ?_, fun s code => exec_undefined code s⟩
  · have hconfig : t.config = s.config := (busRead_cpu hread).config
    have hunpop : populated t.config code = false := by
      obtain habsent | ⟨hundoc, e, hentry, hdoc⟩ := hcode
      · exact populated_of_absent _ habsent
      · rw [populated_of_lookup _ hentry, hdoc, hconfig, hundoc, Bool.or_self]
    rw [step_fetch hrun hnmi, fetch_unpopulated hread hunpop, Access.andThen_ok, exec_undefined]
    simp only [State.setPc_pc, BitVec.add_sub_cancel]
    rfl
  · rw [step_fetch hrun hnmi, fetch_fault_opcode hread, Access.andThen_fault]
  · have hconfig : u.config = s.config := (busRead_cpu hread).config
    have hcount : operandCount u.config code = e.mode.length - 1 := operandCount_of_populated hentry (hconfig ▸ hpop)
    have hstops : ∀ f, fetchOperands (e.mode.length - 1) (u.setPc (s.pc + 1)) = .fault f → step s = .fault f :=
      fun f hf => by
        rw [step_fetch hrun hnmi, fetch_fault_operands hread (hcount ▸ hf), Access.andThen_fault]
    refine ⟨fun f hlen hf => ?_, fun b w f hlen hfirst hf => ?_⟩
    · exact ⟨hstops f (fetchOperands_fault_first (by omega) hf), busRead_fault_pc hf⟩
    · have hsecond : busRead (s.pc + 1 + 1) w = .fault f := by
        rwa [BitVec.add_assoc]
      have hpc : w.pc = s.pc + 1 := (busRead_cpu hfirst).pc
      exact ⟨hstops f (hlen ▸ fetchOperands_fault_second hfirst hsecond), (busRead_fault_pc hf).trans hpc⟩

end Sys2Proof.Proofs.FetchFaults
end

section
/-! The step by what it fetches: it runs the instruction that the bytes at PC decode to (O17), and PC and the cycles
after it (O23), said once for each class of instruction and then of each instruction. -/

namespace Sys2Proof.Machine

/-! ## A fetch that completes (R171, R173) -/

/-- A code with an entry and its operand bytes make an instruction of that entry. -/
theorem decodeBytes_ofEntry {c : Byte} {e : Entry} (h : lookup c = some e) {l : List Byte}
    (hl : l.length + 1 = e.mode.length) : (decodeBytes c (l.getD 0 0) (l.getD 1 0)).OfEntry e := by
  obtain ⟨i, hi, hentry, -⟩ := assemble_ofEntry (lookup_mem h) hl
  rwa [decodeBytes_of_lookup h hi]

/-- Operand reads that change nothing give the bytes from PC on. -/
theorem fetchOperands_of_reads {s : State} {l : List Byte} (hl : l.length ≤ 2)
    (h : ∀ k b, l[k]? = some b → busRead (s.pc + BitVec.ofNat 16 k) s = .ok b s) :
    fetchOperands l.length s = .ok (l.getD 0 0, l.getD 1 0) s := by
  have hfirst : ∀ b, l[0]? = some b → busRead s.pc s = .ok b s := fun b hb => by
    have hread := h 0 b hb
    rwa [BitVec.add_zero] at hread
  match l with
  | [] => rfl
  | [b1] =>
    simp only [List.length_singleton, fetchOperands, hfirst b1 rfl, Access.bind_ok]
    rfl
  | [b1, b2] =>
    have hsecond : busRead (s.pc + 1) s = .ok b2 s := h 1 b2 rfl
    simp only [List.length_cons, List.length_nil, fetchOperands, hfirst b1 rfl, hsecond, Access.bind_ok]
    rfl

/-- Operand reads that complete give as many bytes as were asked for. -/
theorem fetchOperands_eq_ok {n : Nat} (hn : n ≤ 2) {s t : State} {b : Byte × Byte}
    (h : fetchOperands n s = .ok b t) : ∃ l : List Byte, l.length = n ∧ b = (l.getD 0 0, l.getD 1 0) := by
  match n with
  | 0 =>
    cases h
    exact ⟨[], rfl, rfl⟩
  | 1 =>
    obtain ⟨b1, _, -, h⟩ := Access.bind_eq_ok.1 h
    cases h
    exact ⟨[b1], rfl, rfl⟩
  | 2 =>
    obtain ⟨b1, _, -, h⟩ := Access.bind_eq_ok.1 h
    obtain ⟨b2, _, -, h⟩ := Access.bind_eq_ok.1 h
    cases h
    exact ⟨[b1, b2], rfl, rfl⟩

section fetch
variable {s t u : State} {c : Byte} {i : Instr}

/-- A populated code is fetched with its operand bytes, and they are decoded: no read changes the parameters. -/
theorem fetch_populated (h : busRead s.pc s = .ok c u) (hp : populated u.config c = true) :
    fetch s = (fetchOperands (codeLength c - 1) (u.setPc (s.pc + 1))).bind
      fun b t => .ok (decodeBytes c b.1 b.2) t := by
  simp only [fetch, h, Access.bind_ok, operandCount, if_pos hp]
  cases ho : fetchOperands (codeLength c - 1) (u.setPc (s.pc + 1)) with
  | ok b t =>
    have hconfig : t.config = u.config :=
      (((keptByBus_sameCpu _).fetchOperands _ (.rfl' (u.setPc (s.pc + 1)))).of_ok ho).config
    simp only [Access.bind_ok, fetchedInstr, hconfig, if_pos hp]
  | fault f => rfl

/-- A fetch that completes moves PC past the opcode byte and leaves the rest of the CPU, and gives UNDEFINED or what the
code and its operand bytes decode to. -/
theorem fetch_eq_ok (hread : busRead s.pc s = .ok c u) (h : fetch s = .ok i t) :
    SameCpu (s.setPc (s.pc + 1)) t ∧
      (i = .undefined c ∨
        ∃ l : List Byte, l.length + 1 = codeLength c ∧ i = decodeBytes c (l.getD 0 0) (l.getD 1 0)) := by
  have hcpu : SameCpu (s.setPc (s.pc + 1)) (u.setPc (s.pc + 1)) := busRead_cpu (busRead_setPc hread _)
  cases hp : populated u.config c with
  | false =>
    rw [fetch_unpopulated hread hp] at h
    cases h
    exact ⟨hcpu, .inl rfl⟩
  | true =>
    rw [fetch_populated hread hp] at h
    obtain ⟨b, w, ho, h⟩ := Access.bind_eq_ok.1 h
    cases h
    have hlen := codeLength_cases c
    obtain ⟨l, hl, rfl⟩ := fetchOperands_eq_ok (by omega) ho
    exact ⟨((keptByBus_sameCpu _).fetchOperands _ hcpu).of_ok ho, .inr ⟨l, by omega, rfl⟩⟩

end fetch

/-! ## PC and the cycles of an instruction -/

/-- The cycles found by operation and mode are the entry's own: the NOPs that share a mode share them (R149, R360). -/
theorem baseCycles_of_mem : ∀ e ∈ opcodeTable, baseCycles e.op e.mode = e.cycles := by
  decide +kernel

/-- A crossing costs at most one cycle (R192). -/
theorem charge_bounds (op : Op) (m : Mode) (c : Bool) :
    baseCycles op m ≤ charge op m c ∧ charge op m c ≤ baseCycles op m + 1 := by
  unfold charge
  split <;> omega

theorem charge_uncrossed (op : Op) (m : Mode) : charge op m false = baseCycles op m := by
  simp [charge]

/-- A write adds nothing to the cycles but an OAM DMA's stall (R411). -/
theorem busWrite_stall {a : Addr} {v : Byte} {s t : State} {n : Nat} (h : busWrite a v s = .ok n t) :
    n ≤ s.config.oamDmaStall := by
  unfold busWrite at h
  split at h
  case h_4 =>
    obtain ⟨_, u, hu, h⟩ := Access.bind_eq_ok.1 h
    cases h
    have hcpu : SameCpu s t := ((keptByBus_sameCpu s).oamCopy _ _ _ (.rfl' s)).of_ok hu
    exact (congrArg Config.oamDmaStall hcpu.config).le
  case h_2 | h_7 =>
    obtain ⟨_, u, -, h⟩ := Access.bind_eq_ok.1 h
    cases h
    exact Nat.zero_le _
  all_goals
    cases h
    exact Nat.zero_le _

/-- The operations that are control transfers: jumps, returns and branches (R175). -/
def transferOps : List Op := [.jmp, .jsr, .rts, .rti, .bpl, .bmi, .bvc, .bvs, .bcc, .bcs, .bne, .beq]

/-- PC, CYCLES and the parameters are those of `s`. -/
structure SameTime (s u : State) : Prop where
  pc     : u.pc = s.pc
  cycles : u.cycles = s.cycles
  config : u.config = s.config

namespace SameTime
variable {s t u : State}

theorem refl (s : State) : SameTime s s := ⟨rfl, rfl, rfl⟩

theorem trans (h : SameTime s t) (k : SameTime t u) : SameTime s u :=
  ⟨k.pc.trans h.pc, k.cycles.trans h.cycles, k.config.trans h.config⟩

theorem of_sameCpu (h : SameCpu s t) : SameTime s t := ⟨h.pc, h.cycles, h.config⟩

end SameTime

/-- What an operation in a mode makes of PC and CYCLES, from `s` with PC past the opcode byte: PC goes past the operand
bytes unless the operation is a control transfer, and the cycles are the entry's, at most two more and at most the
stall of an OAM DMA (R175, R176, R177, R470). -/
structure Charged (op : Op) (m : Mode) (s t : State) : Prop where
  pc      : op ∉ transferOps → t.pc = s.pcAfter m
  atLeast : s.cycles + baseCycles op m ≤ t.cycles
  atMost  : t.cycles ≤ s.cycles + baseCycles op m + 2 + s.config.oamDmaStall

namespace Charged
variable {op : Op} {m : Mode} {s t u : State}

/-- A control transfer ticks its base cycles, and a taken branch one or two more (R296). -/
theorem finish {next : Addr} {n extra : Nat} (hn : finish next n u = .next t) (hop : op ∈ transferOps)
    (h : SameTime s u) (hextra : extra ≤ 2) (hcharge : n = charge op m false + extra) : Charged op m s t := by
  cases hn
  rw [charge_uncrossed] at hcharge
  have hcycles : (tick n (u.setPc next)).cycles = s.cycles + n := congrArg (· + n) h.cycles
  exact ⟨absurd hop, by omega, by omega⟩

theorem advance {c : Bool} {extra : Nat} (hn : advance op m c extra u = .next t) (h : SameTime s u)
    (hextra : extra ≤ s.config.oamDmaStall) : Charged op m s t := by
  cases hn
  have hcharge := charge_bounds op m c
  have hcycles : (tick (charge op m c + extra) (u.setPc (u.pcAfter m))).cycles =
      s.cycles + (charge op m c + extra) := congrArg (· + _) h.cycles
  exact ⟨fun _ => congrArg (· + _) h.pc, by omega, by omega⟩

theorem impliedClass {effect : State → State} (hn : impliedClass op effect s = .next t)
    (he : SameTime s (effect s)) : Charged op .implied s t :=
  advance hn he (Nat.zero_le _)

theorem readClass {o : Source} {effect : Byte → State → State} (hn : readClass op o effect s = .next t)
    (he : ∀ v u, SameTime u (effect v u)) : Charged op o.mode s t := by
  obtain ⟨v, c, u, hr, rfl⟩ := readClass_next hn
  exact advance (extra := 0) rfl ((SameTime.of_sameCpu (readSource_cpu hr)).trans (he v u)) (Nat.zero_le _)

theorem writeClass {m : MemOperand} {value : State → Byte} (hn : writeClass op m value s = .next t) :
    Charged op m.mode s t := by
  obtain ⟨e, stall, u, -, hw, rfl⟩ := writeClass_next hn
  exact advance rfl (.of_sameCpu (busWrite_cpu hw)) (busWrite_stall hw)

theorem rmwClass {m : MemOperand} {modify : Byte → State → Byte × State} {after : Byte → State → State}
    (hn : rmwClass op m modify after s = .next t) (hm : ∀ v u, SameTime u (modify v u).2)
    (ha : ∀ v u, SameTime u (after v u)) : Charged op m.mode s t := by
  obtain ⟨e, v, w, stall, u, -, hv, hw, rfl⟩ := rmwClass_next hn
  have hread := (SameTime.of_sameCpu (busRead_cpu hv)).trans (hm v w)
  have hwrite := (SameTime.of_sameCpu (busWrite_cpu hw)).trans (ha (modify v w).1 u)
  exact advance rfl (hread.trans hwrite) (hread.config ▸ busWrite_stall hw)

theorem shiftClass {o : ShiftOperand} {core : Byte → State → Byte × State} (hn : shiftClass op o core s = .next t)
    (hc : ∀ v u, SameTime u (core v u).2) : Charged op o.mode s t := by
  cases o with
  | acc => exact advance hn ((hc s.a s).trans ⟨rfl, rfl, rfl⟩) (Nat.zero_le _)
  | mem m => exact rmwClass (after := fun r t => t.setZN r) hn hc fun _ _ => ⟨rfl, rfl, rfl⟩

theorem branch {cond : State → Bool} {d : Byte} (hn : branch op cond d s = .next t) (hop : op ∈ transferOps) :
    Charged op .relative s t := by
  unfold Machine.branch at hn
  simp only at hn
  split at hn
  · exact finish hn hop (.refl s) (by split <;> decide) rfl
  · exact finish hn hop (.refl s) (Nat.zero_le 2) rfl

end Charged

/-- Every instruction that completes is charged as its class is. -/
theorem exec_charged {i : Instr} {op : Op} {s t : State} (hop : i.op = some op) (h : exec i s = .next t) :
    Charged op i.mode s t := by
  cases i with
  | lda o | ldx o | ldy o | adc o | sbc o | and o | ora o | eor o | cmp o | cpx o | cpy o =>
    cases hop
    simp only [exec, execLda, execLdx, execLdy, execAdc, execSbc, execAnd, execOra, execEor, execCmp, execCpx,
      execCpy] at h
    exact .readClass h fun _ _ => ⟨rfl, rfl, rfl⟩
  | bit m | lax m | sbcUndoc v =>
    cases hop
    simp only [exec, execBit, execLax, execSbcUndoc] at h
    exact .readClass h fun _ _ => ⟨rfl, rfl, rfl⟩
  | nopUndoc code o =>
    cases hop
    simp only [exec, execNopUndoc] at h
    cases o with
    | implied => exact .impliedClass h (.refl s)
    | read o => exact .readClass h fun _ u => .refl u
  | sta m | stx m | sty m | sax m =>
    cases hop
    simp only [exec, execSta, execStx, execSty, execSax] at h
    exact .writeClass h
  | inc m | dec m | slo m | rla m | sre m | rra m | dcp m | isb m =>
    cases hop
    simp only [exec, execInc, execDec, execSlo, execRla, execSre, execRra, execDcp, execIsb] at h
    exact .rmwClass h (fun _ _ => ⟨rfl, rfl, rfl⟩) fun _ _ => ⟨rfl, rfl, rfl⟩
  | asl o | lsr o | rol o | ror o =>
    cases hop
    simp only [exec, execAsl, execLsr, execRol, execRor] at h
    exact .shiftClass h fun _ _ => ⟨rfl, rfl, rfl⟩
  | tax | tay | txa | tya | tsx | txs | inx | iny | dex | dey | nop =>
    cases hop
    simp only [exec, execTax, execTay, execTxa, execTya, execTsx, execTxs, execInx, execIny, execDex, execDey,
      execNop] at h
    exact .impliedClass h ⟨rfl, rfl, rfl⟩
  | clc | sec | cli | sei | cld | sed | clv =>
    cases hop
    simp only [exec, execClc, execSec, execCli, execSei, execCld, execSed, execClv] at h
    exact .impliedClass h ⟨rfl, rfl, rfl⟩
  | bpl d | bmi d | bvc d | bvs d | bcc d | bcs d | bne d | beq d =>
    cases hop
    simp only [exec, execBpl, execBmi, execBvc, execBvs, execBcc, execBcs, execBne, execBeq] at h
    exact .branch h (by decide)
  | jmp a =>
    cases hop
    exact .finish h (by decide) (.refl s) (Nat.zero_le 2) rfl
  | jmpInd p =>
    cases hop
    simp only [exec, execJmpInd] at h
    obtain ⟨a, u, hu, hn⟩ := Access.andThen_eq_next.1 h
    exact .finish hn (by decide) (.of_sameCpu (resolveIndirect_cpu hu)) (Nat.zero_le 2) rfl
  | jsr a | rts | rti =>
    cases hop
    simp only [exec, execJsr, execRts, execRti, push16_eq, pull16_eq, pullFrame_eq, Access.andThen_ok] at h
    exact .finish h (by decide) ⟨rfl, rfl, rfl⟩ (Nat.zero_le 2) rfl
  | pha | php | pla | plp =>
    cases hop
    simp only [exec, execPha, execPhp, execPla, execPlp, push_eq, pull_eq, Access.andThen_ok] at h
    exact .advance h ⟨rfl, rfl, rfl⟩ (Nat.zero_le _)
  | brk =>
    cases hop
    cases h
    have hadvance : Charged .brk .implied s (tick (charge .brk .implied false) (s.setPc (s.pcAfter .implied))) :=
      .advance (c := false) (extra := 0) rfl (.refl s) (Nat.zero_le _)
    exact { hadvance with }
  | undefined code => cases h

end Sys2Proof.Machine

namespace Sys2Proof.Proofs.Execution
open Sys2Proof.Machine

/-- Settles O23: the fetched instruction is the entry's, and is charged by its class. -/
theorem stepPcAndCycles : Obligations.StepPcAndCycles := by
  intro s t u code e hrun hnmi hread hentry hstep
  rw [step_fetch hrun hnmi] at hstep
  obtain ⟨i, w, hfetch, hexec⟩ := Access.andThen_eq_next.1 hstep
  obtain ⟨hcpu, rfl | ⟨l, hl, rfl⟩⟩ := fetch_eq_ok hread hfetch
  · cases hexec
  · rw [codeLength_of_lookup hentry] at hl
    have hof := decodeBytes_ofEntry hentry hl
    obtain ⟨hpc, hatLeast, hatMost⟩ := exec_charged hof.op hexec
    have hcycles : w.cycles = s.cycles := hcpu.cycles
    have hconfig : w.config = s.config := hcpu.config
    rw [hof.mode, baseCycles_of_mem e (lookup_mem hentry), hcycles] at hatLeast hatMost
    rw [hconfig] at hatMost
    refine ⟨fun hplain => ?_, hatLeast, hatMost⟩
    have hpcw : w.pc = s.pc + 1 := hcpu.pc
    rw [hpc hplain, hof.mode, State.pcAfter, ← hl, Nat.add_sub_cancel, hpcw, ← ofNat_add_one, BitVec.add_assoc,
      BitVec.add_comm 1]

/-- Settles O17: the fetch reads the code and the operand bytes that the decoder took, and the step is `exec` after
it. -/
theorem stepRunsDecoded : Obligations.StepRunsDecoded := by
  intro s i bytes s0 hrun hnmi hdecode hdoc hreads
  obtain ⟨c, l, hlen, rfl, rfl⟩ := decode_eq_ok hdecode
  rw [List.append_nil] at hreads
  have hcode : busRead s0.pc s0 = .ok c s0 := by
    have hread := hreads 0 c rfl
    rwa [BitVec.add_zero] at hread
  suffices hfetch : fetch s0 = .ok (decodeBytes c (l.getD 0 0) (l.getD 1 0)) (s0.setPc (s.pc + 1)) by
    have hstep := step_fetch hrun hnmi
    rwa [show s.setReport false false = s0 from rfl, hfetch] at hstep
  cases hentry : lookup c with
  | none =>
    rw [decodeBytes_of_absent hentry]
    exact fetch_unpopulated hcode (populated_of_absent _ (lookup_eq_none_iff.1 hentry))
  | some e =>
    have hop := (decodeBytes_ofEntry hentry (hlen.trans (codeLength_of_lookup hentry))).op
    have hpop : populated s0.config c = true := by
      rw [populated_of_lookup _ hentry, Bool.or_eq_true]
      exact hdoc e.op hop
    have hoperands : fetchOperands l.length (s0.setPc (s.pc + 1)) =
        .ok (l.getD 0 0, l.getD 1 0) (s0.setPc (s.pc + 1)) := by
      have hmost := codeLength_cases c
      refine fetchOperands_of_reads (by omega) fun k b hb => ?_
      have hread := busRead_setPc (hreads (k + 1) b hb) (s.pc + 1)
      rwa [← ofNat_add_one, BitVec.add_comm (BitVec.ofNat 16 k), ← BitVec.add_assoc] at hread
    rw [fetch_populated hcode hpop, ← hlen, Nat.add_sub_cancel]
    exact congrArg (Access.bind · _) hoperands

end Sys2Proof.Proofs.Execution
end

section
/-! The effective addresses and the read-class operand (O30), and the jumps and returns (O41). -/

namespace Sys2Proof.Machine

/-! ## Effective addresses (R181 to R190) -/

theorem zext16_eq_addr16 (z : Byte) : zext16 z = addr16 0x00 z :=
  BitVec.eq_of_toNat_eq (by rw [toNat_zext16, toNat_addr16]; simp)

/-- A crossing is a change of the high byte (R193). -/
theorem indexed_eq (base : Addr) (i : Byte) :
    indexed base i = ⟨base + zext16 i, decide (highByte (base + zext16 i) ≠ highByte base)⟩ := by
  simp [indexed, bne, BEq.beq]

theorem readSource_mem {m : MemOperand} {s u : State} {e : EffAddr} (h : resolve m s = .ok e u) :
    readSource (.mem m) s = (busRead e.ea u).bind fun v t => .ok (v, e.crossed) t := by
  simp only [readSource, h, Access.bind_ok]

/-! ## The jumps' and returns' cycles (R148) -/

theorem charge_jumps :
    charge .jmp .absolute false = 3 ∧ charge .jmp .indirect false = 5 ∧ charge .jsr .absolute false = 6 ∧
      charge .rts .implied false = 6 ∧ charge .rti .implied false = 6 := by
  decide

end Sys2Proof.Machine

namespace Sys2Proof.Proofs.Addressing
open Sys2Proof.Machine

/-- Settles O30: the pointers are read in page 0 (`zpRead16_eq`), and the operand at the effective address. -/
theorem effectiveAddresses : Obligations.EffectiveAddresses := by
  refine ⟨fun s z a => ?_, fun v s => rfl, fun m s u t e v hr hread => ?_, fun m s u e f hr hread => ?_⟩
  · simp only [resolve, zpRead16_eq, Access.bind_ok, zext16_eq_addr16, indexed_eq, and_self]
  · rw [readSource_mem hr, hread, Access.bind_ok]
  · rw [readSource_mem hr, hread, Access.bind_fault]

/-- Settles O41: the pushes and pulls are those of stack RAM, the pointer's reads complete or stop the jump, and the
codes are the table's. -/
theorem jumpsComplete : Obligations.JumpsComplete := by
  intro s
  obtain ⟨hjmp, hind, hjsr, hrts, hrti⟩ := charge_jumps
  refine ⟨fun a => ?jmp, fun ptr lo hi u t hlo hhi => ?jmpInd, fun ptr f hlo => ?lowFaults,
    fun ptr lo u f hlo hhi => ?highFaults, fun a => ?jsr, ?rts, ?rti, fun a => ⟨rfl, rfl, rfl⟩, rfl, rfl⟩
  case jmp =>
    simp only [exec, execJmp, hjmp]
    rfl
  case jmpInd =>
    simp only [exec, execJmpInd, resolveIndirect, ptrHigh, hlo, hhi, Access.bind_ok, Access.andThen_ok, hind]
    rfl
  case lowFaults =>
    simp only [exec, execJmpInd, resolveIndirect, hlo, Access.bind_fault, Access.andThen_fault]
  case highFaults =>
    simp only [exec, execJmpInd, resolveIndirect, ptrHigh, hlo, hhi, Access.bind_ok, Access.bind_fault,
      Access.andThen_fault]
  case jsr =>
    simp only [exec, execJsr, push16_eq, Access.andThen_ok, hjsr, BitVec.sub_sub]
    rfl
  case rts =>
    simp only [exec, execRts, pull16_eq, Access.andThen_ok, hrts, BitVec.add_assoc]
    rfl
  case rti =>
    simp only [exec, execRti, pullFrame_eq, Access.andThen_ok, hrti, BitVec.add_assoc]
    rfl

end Sys2Proof.Proofs.Addressing
end

section
/-! Loads, stores, transfers and register counters completed, and the access faults that stop an instruction
(O31 to O34): one lemma per class of instruction. -/

namespace Sys2Proof.Machine

/-! ## Completion by class -/

/-- Resolving a memory operand leaves the state (R181 to R190). -/
theorem resolve_state {m : MemOperand} {s u : State} {e : EffAddr} (h : resolve m s = .ok e u) : u = s := by
  obtain ⟨e', he⟩ := resolve_ok m s
  rw [he] at h
  cases h
  rfl

/-- A well-formed read-class instruction that has its operand ends past the operand bytes, with the cycles of the
grid (R148, R175, R192). -/
theorem readClass_completes {i : Instr} {op : Op} {o : Source} {s t : State} {v : Byte} {crossed : Bool}
    {effect : Byte → State → State} (hop : op ∈ readOps) (ho : i.op = some op) (hmode : i.mode = o.mode)
    (hwf : i.wellFormed = true) (hr : readSource o s = .ok (v, crossed) t) :
    readClass op o effect s = .next (tick (readCycles o crossed)
      { effect v t with pc := (effect v t).pc + BitVec.ofNat 16 o.bytes.length }) := by
  have hm : o.mode ∈ op.modes := hmode ▸ mode_mem ho hwf
  rw [readClass_ok hr, charge_read hop hm, pcAfter_source]
  rfl

/-- A load puts the operand where `put` says, and then Z and N of it (R38). -/
theorem readClass_load {i : Instr} {op : Op} {o : Source} {s t : State} {v : Byte} {crossed : Bool}
    {put : Byte → State → State} (hop : op ∈ readOps) (ho : i.op = some op) (hmode : i.mode = o.mode)
    (hr : readSource o s = .ok (v, crossed) t) (hwf : i.wellFormed = true) :
    readClass op o (fun v t => (put v t).setZN v) s = .next (tick (readCycles o crossed)
      { put v t with p := znBits (put v t).p v, pc := (put v t).pc + BitVec.ofNat 16 o.bytes.length }) := by
  rw [readClass_completes hop ho hmode hwf hr, setZN_eq]

/-- A well-formed store whose write completes ends past the operand bytes, with the cycles of the grid and the write's
stall (R148, R192, R411). The byte stored is of the state before the resolve. -/
theorem writeClass_completes {i : Instr} {op : Op} {m : MemOperand} {s u t : State} {e : EffAddr} {stall : Nat}
    {value : State → Byte} (hop : op ∈ storeOps) (ho : i.op = some op) (hmode : i.mode = m.mode)
    (hr : resolve m s = .ok e u) (hwf : i.wellFormed = true) (hw : busWrite e.ea (value s) u = .ok stall t) :
    writeClass op m value s =
      .next (tick (storeCycles m + stall) { t with pc := t.pc + BitVec.ofNat 16 m.bytes.length }) := by
  have hm : m.mode ∈ op.modes := hmode ▸ mode_mem ho hwf
  obtain rfl := resolve_state hr
  rw [writeClass_ok hr hw, charge_store hop hm, pcAfter_mem]
  rfl

/-! ## The operations on registers alone -/

/-- The transfers and register counters. -/
def registerOps : List Op := [.tax, .tay, .txa, .tya, .tsx, .txs, .inx, .iny, .dex, .dey]

/-- Each has 2 cycles (R148). -/
theorem registerOp_grid : ∀ op ∈ registerOps, gridCell op .implied = some (2, false) := by decide

/-- A transfer to a register or a register counter puts the result where `put` says, and then Z and N of it (R38). -/
theorem registerOp_zn {op : Op} (hop : op ∈ registerOps) (put : State → State) (result : State → Byte) (s : State) :
    impliedClass op (fun t => (put t).setZN (result t)) s =
      .next (tick 2 { put s with p := znBits (put s).p (result s) }) := by
  rw [impliedClass_two (registerOp_grid op hop), setZN_eq]

/-! ## The shifts, with C written before the store (R255 to R258; log 12) -/

section shifts
variable (v : Byte) (s : State)

theorem aslCore_eq : aslCore v s = (v <<< 1, { s with p := cBits s.p (v.getLsbD 7) }) := by
  rw [aslCore, setFlag_c_eq]

theorem lsrCore_eq : lsrCore v s = (v >>> 1, { s with p := cBits s.p (v.getLsbD 0) }) := by
  rw [lsrCore, setFlag_c_eq]

theorem rolCore_eq : rolCore v s =
    ((v <<< 1) ||| (if s.flag .c then 0x01 else 0x00), { s with p := cBits s.p (v.getLsbD 7) }) := by
  rw [rolCore, setFlag_c_eq]

theorem rorCore_eq : rorCore v s =
    ((v >>> 1) ||| (if s.flag .c then 0x80 else 0x00), { s with p := cBits s.p (v.getLsbD 0) }) := by
  rw [rorCore, setFlag_c_eq]

end shifts

/-! ## Faults by class (R387) -/

/-- A store stops with its write's fault; the byte stored is of the state before the resolve. -/
theorem writeClass_stops {op : Op} {m : MemOperand} {s u : State} {e : EffAddr} {value : State → Byte} {f : Fault}
    (hr : resolve m s = .ok e u) (hw : busWrite e.ea (value s) u = .fault f) :
    writeClass op m value s = .fault f := by
  obtain rfl := resolve_state hr
  exact writeClass_fault hr hw

/-- A read-modify-write stops with the fault of its write, made of what `modify` gives. -/
theorem rmwClass_stops {op : Op} {m : MemOperand} {s u w w' : State} {e : EffAddr} {v r : Byte} {f : Fault}
    {modify : Byte → State → Byte × State} {after : Byte → State → State} (hr : resolve m s = .ok e u)
    (hv : busRead e.ea u = .ok v w) (hmodify : modify v w = (r, w')) (hw : busWrite e.ea r w' = .fault f) :
    rmwClass op m modify after s = .fault f :=
  rmwClass_writeFault hr hv (by rw [hmodify]; exact hw) after

end Sys2Proof.Machine

namespace Sys2Proof.Proofs.LoadStoreTransfer
open Sys2Proof.Machine

/-- Settles O32: each is of the read class, and puts the operand in its register. -/
theorem loadsComplete : Obligations.LoadsComplete := by
  intro o s t v crossed hr
  simp only [exec, execLda, execLdx, execLdy, execLax]
  refine ⟨readClass_load (by decide) rfl rfl hr, readClass_load (by decide) rfl rfl hr,
    readClass_load (by decide) rfl rfl hr, ?lax⟩
  case lax =>
    rintro m rfl
    exact readClass_load (by decide) rfl rfl hr

/-- Settles O33: each is of the write class, with its own byte to store. -/
theorem storesComplete : Obligations.StoresComplete := by
  intro m s u t e stall hr
  simp only [exec, execSta, execStx, execSty, execSax]
  exact ⟨writeClass_completes (by decide) rfl rfl hr, writeClass_completes (by decide) rfl rfl hr,
    writeClass_completes (by decide) rfl rfl hr,
    writeClass_completes (value := fun t => t.a &&& t.x) (by decide) rfl rfl hr⟩

/-- Settles O34: nine put a result in a register and then Z and N of it, TXS writes SP alone, and the codes are the
table's. -/
theorem registerOpsComplete : Obligations.RegisterOpsComplete := by
  intro s
  simp only [exec, execTax, execTay, execTxa, execTya, execTsx, execTxs, execInx, execIny, execDex, execDey]
  exact ⟨registerOp_zn (by decide) .., registerOp_zn (by decide) .., registerOp_zn (by decide) ..,
    registerOp_zn (by decide) .., registerOp_zn (by decide) ..,
    impliedClass_two (registerOp_grid .txs (by decide)) _ s,
    registerOp_zn (by decide) .., registerOp_zn (by decide) .., registerOp_zn (by decide) ..,
    registerOp_zn (by decide) .., rfl, rfl, rfl, rfl, rfl, rfl, rfl, rfl, rfl, rfl⟩

/-- Settles O31: the fault of a read, of a store, and of a read-modify-write's read and write, each by its class. -/
theorem faultingAccessesStop : Obligations.FaultingAccessesStop := by
  refine ⟨fun o s f h => ⟨fun i hi => ?read, fun code => ?nop, ?readMemory⟩,
    fun m s u e f hr => ⟨fun hw => ?sta, fun hw => ?stx, fun hw => ?sty, fun hw => ?sax, fun hv i hi => ?rmwRead⟩,
    fun m s u w e v f hr hv => ?rmwWrite⟩
  case read =>
    simp only [List.mem_cons, List.not_mem_nil, or_false] at hi
    obtain rfl | rfl | rfl | rfl | rfl | rfl | rfl | rfl | rfl | rfl | rfl := hi
    all_goals
      simp only [exec, execLda, execLdx, execLdy, execAdc, execSbc, execAnd, execOra, execEor, execCmp, execCpx,
        execCpy]
      exact readClass_fault h _
  case nop =>
    simp only [exec, execNopUndoc]
    exact readClass_fault h _
  case readMemory =>
    rintro m rfl
    simp only [exec, execBit, execLax]
    exact ⟨readClass_fault h _, readClass_fault h _⟩
  case sta => exact writeClass_stops hr hw
  case stx => exact writeClass_stops hr hw
  case sty => exact writeClass_stops hr hw
  case sax => exact writeClass_stops (value := fun t => t.a &&& t.x) hr hw
  case rmwRead =>
    simp only [List.mem_cons, List.not_mem_nil, or_false] at hi
    obtain rfl | rfl | rfl | rfl | rfl | rfl | rfl | rfl | rfl | rfl | rfl | rfl := hi
    all_goals
      simp only [exec, execInc, execDec, execAsl, execLsr, execRol, execRor, execSlo, execRla, execSre, execRra,
        execDcp, execIsb, shiftClass]
      exact rmwClass_readFault hr hv _ _
  case rmwWrite =>
    simp only [exec, execInc, execDec, execAsl, execLsr, execRol, execRor, execSlo, execRla, execSre, execRra, execDcp,
      execIsb, shiftClass]
    refine ⟨fun hw => ?inc, fun hw => ?dec, fun hw => ?asl, fun hw => ?lsr, fun hw => ?rol, fun hw => ?ror⟩
    case inc => exact ⟨rmwClass_stops hr hv rfl hw, rmwClass_stops hr hv rfl hw⟩
    case dec => exact ⟨rmwClass_stops hr hv rfl hw, rmwClass_stops hr hv rfl hw⟩
    case asl => exact ⟨rmwClass_stops hr hv (aslCore_eq v w) hw, rmwClass_stops hr hv (aslCore_eq v w) hw⟩
    case lsr => exact ⟨rmwClass_stops hr hv (lsrCore_eq v w) hw, rmwClass_stops hr hv (lsrCore_eq v w) hw⟩
    case rol => exact ⟨rmwClass_stops hr hv (rolCore_eq v w) hw, rmwClass_stops hr hv (rolCore_eq v w) hw⟩
    case ror => exact ⟨rmwClass_stops hr hv (rorCore_eq v w) hw, rmwClass_stops hr hv (rorCore_eq v w) hw⟩

end Sys2Proof.Proofs.LoadStoreTransfer
end

section
/-! Arithmetic, logic, compares and shifts completed (O35, O37, O39): the operations that write A and P, and the
read-modify-writes that write P before their store. -/

namespace Sys2Proof.Machine

/-! ## A and P from an operand -/

section operand
variable {i : Instr} {op : Op} {o : Source} {s t : State} {v : Byte} {crossed : Bool}

/-- A well-formed read-class instruction whose effect is to write A and P. -/
theorem readClass_accumulator {effect : Byte → State → State} {a p : Byte} (hop : op ∈ readOps) (ho : i.op = some op)
    (hmode : i.mode = o.mode) (hr : readSource o s = .ok (v, crossed) t)
    (heffect : effect v t = { t with a := a, p := p }) (hwf : i.wellFormed = true) :
    readClass op o effect s = .next (tick (readCycles o crossed)
      { t with a := a, p := p, pc := t.pc + BitVec.ofNat 16 o.bytes.length }) := by
  rw [readClass_completes hop ho hmode hwf hr, heffect]

/-- AND, ORA and EOR: the result goes to A, and then Z and N of it (R242 to R244). -/
theorem readClass_logic {result : Byte → Byte → Byte} (hop : op ∈ readOps) (ho : i.op = some op)
    (hmode : i.mode = o.mode) (hr : readSource o s = .ok (v, crossed) t) (hwf : i.wellFormed = true) :
    readClass op o (fun m t => (t.setA (result t.a m)).setZN (result t.a m)) s = .next (tick (readCycles o crossed)
      { t with a := result t.a v, p := znBits t.p (result t.a v), pc := t.pc + BitVec.ofNat 16 o.bytes.length }) :=
  readClass_accumulator hop ho hmode hr (setZN_eq ..) hwf

end operand

/-! ## Read-modify-writes, on A and on memory -/

section shifts
variable {op : Op} {core : Byte → State → Byte × State} {s : State} {r : Byte}

/-- A well-formed read-modify-write whose write completes, in the state that `core` gives (R174, R387), ends past
the operand bytes, with the cycles of the grid and the write's stall. -/
theorem rmwClass_completes {i : Instr} {m : MemOperand} {u w w' t : State} {e : EffAddr} {v : Byte} {stall : Nat}
    {after : Byte → State → State} (hop : op ∈ rmwOps) (ho : i.op = some op) (hmode : i.mode = m.mode)
    (hr : resolve m s = .ok e u) (hv : busRead e.ea u = .ok v w) (hcore : core v w = (r, w'))
    (hwf : i.wellFormed = true) (hw : busWrite e.ea r w' = .ok stall t) :
    rmwClass op m core after s = .next (tick (rmwCycles m + stall)
      { after r t with pc := (after r t).pc + BitVec.ofNat 16 m.bytes.length }) := by
  have hm : m.mode ∈ op.modes := hmode ▸ mode_mem ho hwf
  rw [rmwClass_ok hr hv (by rw [hcore]; exact hw), hcore, charge_rmw hop hm, pcAfter_mem]
  rfl

/-- A shift of memory: the shifted byte is written in the state that has the new C, and then Z and N of it. -/
theorem shiftClass_mem {i : Instr} {m : MemOperand} {u w w' t : State} {e : EffAddr} {v : Byte} {stall : Nat}
    (hop : op ∈ rmwOps) (ho : i.op = some op) (hmode : i.mode = m.mode) (hr : resolve m s = .ok e u)
    (hv : busRead e.ea u = .ok v w) (hcore : core v w = (r, w')) (hwf : i.wellFormed = true)
    (hw : busWrite e.ea r w' = .ok stall t) :
    shiftClass op (.mem m) core s = .next (tick (rmwCycles m + stall)
      { t with p := znBits t.p r, pc := t.pc + BitVec.ofNat 16 m.bytes.length }) := by
  rw [shiftClass, rmwClass_completes hop ho hmode hr hv hcore hwf hw, setZN_eq]

/-- A shift of A: the shifted byte in A, the bit shifted out in C, and Z and N of the byte. -/
theorem shiftClass_acc_completes {c : Bool} (h : gridCell op .accumulator = some (2, false))
    (hcore : core s.a s = (r, { s with p := cBits s.p c })) :
    shiftClass op .acc core s = .next (tick 2 { s with a := r, p := znBits (cBits s.p c) r }) := by
  rw [shiftClass_acc h, hcore, setZN_eq]
  rfl

end shifts

end Sys2Proof.Machine

namespace Sys2Proof.Proofs.ArithmeticLogic
open Sys2Proof.Machine

/-- Settles O35: each is of the read class, with `AddCore` of the operand or of its complement. -/
theorem addSubComplete : Obligations.AddSubComplete := by
  intro o s t v crossed hr
  simp only [exec, execAdc, execSbc, execSbcUndoc]
  refine ⟨readClass_accumulator (by decide) rfl rfl hr (addCore_eq ..),
    readClass_accumulator (by decide) rfl rfl hr (addCore_eq ..), ?sbcUndoc⟩
  case sbcUndoc =>
    rintro rfl
    exact readClass_accumulator (i := .sbcUndoc v) (by decide) rfl rfl hr (addCore_eq ..) rfl

/-- Settles O37: each is of the read class; AND, ORA and EOR write A and P, the compares and BIT write P alone. -/
theorem logicAndComparesComplete : Obligations.LogicAndComparesComplete := by
  intro o s t v crossed hr
  simp only [exec, execAnd, execOra, execEor, execCmp, execCpx, execCpy, execBit]
  refine ⟨readClass_logic (by decide) rfl rfl hr, readClass_logic (by decide) rfl rfl hr,
    readClass_logic (by decide) rfl rfl hr,
    readClass_accumulator (by decide) rfl rfl hr (compareCore_eq ..),
    readClass_accumulator (by decide) rfl rfl hr (compareCore_eq ..),
    readClass_accumulator (by decide) rfl rfl hr (compareCore_eq ..), ?bit⟩
  case bit =>
    rintro m rfl
    exact readClass_accumulator (by decide) rfl rfl hr (bitCore_eq ..)

/-- Settles O39: each shift of A and of memory by its core's byte and carry. -/
theorem shiftsComplete : Obligations.ShiftsComplete := by
  refine ⟨fun s => ?acc, fun m s u w t e v r stall hr hv => ?mem⟩
  case acc =>
    simp only [exec, execAsl, execLsr, execRol, execRor]
    exact ⟨shiftClass_acc_completes (by decide) (aslCore_eq ..), shiftClass_acc_completes (by decide) (lsrCore_eq ..),
      shiftClass_acc_completes (by decide) (rolCore_eq ..), shiftClass_acc_completes (by decide) (rorCore_eq ..)⟩
  case mem =>
    simp only [exec, execAsl, execLsr, execRol, execRor]
    refine ⟨fun hwf hb hw => ?asl, fun hwf hb hw => ?lsr, fun hwf hb hw => ?rol, fun hwf hb hw => ?ror⟩
    case asl => exact shiftClass_mem (by decide) rfl rfl hr hv (hb ▸ aslCore_eq v w) hwf hw
    case lsr => exact shiftClass_mem (by decide) rfl rfl hr hv (hb ▸ lsrCore_eq v w) hwf hw
    case rol => exact shiftClass_mem (by decide) rfl rfl hr hv (hb ▸ rolCore_eq v w) hwf hw
    case ror => exact shiftClass_mem (by decide) rfl rfl hr hv (hb ▸ rorCore_eq v w) hwf hw

end Sys2Proof.Proofs.ArithmeticLogic
end

section
/-! Control transfer: the returns that undo their entries (O21, O42), the branches (O43), BRK (O44) and the NOPs
(O45). -/

namespace Sys2Proof.Machine

/-! ## Reading back what was pushed (R110, R111) -/

theorem stackIndex_inj {a b : Byte} : stackIndex a = stackIndex b ↔ a = b := by
  simp [stackIndex, BitVec.toNat_inj]

/-- Stack RAM after a word is pushed at `sp`, high byte first (R111). -/
def pushedWord (m : Memory) (sp : Byte) (w : Addr) : Memory :=
  (m.write (stackIndex sp) (highByte w)).write (stackIndex (sp - 1)) (lowByte w)

/-- The word whose bytes lie at `sp` and below it. -/
def wordAt (m : Memory) (sp : Byte) : Addr := addr16 (m.read (stackIndex sp)) (m.read (stackIndex (sp - 1)))

/-- A pushed word reads back as itself: its bytes lie at two places, whether or not SP wraps between them. -/
theorem wordAt_pushedWord (m : Memory) (sp : Byte) (w : Addr) : wordAt (pushedWord m sp w) sp = w := by
  have hne : stackIndex sp ≠ stackIndex (sp - 1) := mt stackIndex_inj.1 (by bv_omega)
  simp only [wordAt, pushedWord, Memory.read_write_same, Memory.read_write_ne _ _ hne, addr16_high_low]

/-- The byte pushed after a word leaves it. -/
theorem wordAt_write (m : Memory) (sp v : Byte) : wordAt (m.write (stackIndex (sp - 2)) v) sp = wordAt m sp := by
  have hhigh : stackIndex sp ≠ stackIndex (sp - 2) := mt stackIndex_inj.1 (by bv_omega)
  have hlow : stackIndex (sp - 1) ≠ stackIndex (sp - 2) := mt stackIndex_inj.1 (by bv_omega)
  simp only [wordAt, Memory.read_write_ne _ _ hhigh, Memory.read_write_ne _ _ hlow]

/-- Loading P a second time without B changes nothing (R41, R42). -/
theorem withoutBreak_withoutBreak (p : Byte) : withoutBreak (withoutBreak p) = withoutBreak p :=
  eq_of_flags fun f => by
    simp only [getLsbD_withoutBreak]
    cases f <;> rfl

/-- The stack that the NMI entry leaves: PC and then P without B, three bytes down (R393). -/
theorem step_nmi_stack {s t : State} (hrun : s.run = .running) (hnmi : s.ppu.nmiPending = true)
    (h : step s = .next t) :
    t.sp = s.sp - 3 ∧
      t.ram = (pushedWord s.ram s.sp s.pc).write (stackIndex (s.sp - 2)) (withoutBreak s.p) := by
  rw [step_running hrun, runStep, if_pos (show (s.setReport false false).ppu.nmiPending = true from hnmi),
    nmiEntry_eq] at h
  cases h
  simp [nmiPushed, pushedWord, BitVec.sub_sub]

/-- The stack that JSR leaves: the address of its last byte (R292). -/
theorem exec_jsr_stack {s t : State} {a : Addr} (h : exec (.jsr a) s = .next t) :
    t.pc = a ∧ t.sp = s.sp - 2 ∧ t.ram = pushedWord s.ram s.sp (s.pc + 1) := by
  obtain ⟨-, -, -, -, hjsr, -⟩ := Proofs.Addressing.jumpsComplete s
  rw [hjsr] at h
  cases h
  exact ⟨rfl, rfl, rfl⟩

/-! ## The branches (R296) -/

/-- A taken branch: one more cycle, and one further when the target leaves the next instruction's page. -/
def branchTaken (d : Byte) (s : State) : StepOutcome :=
  .next (tick (if highByte (s.pc + 1 + sext16 d) = highByte (s.pc + 1) then 3 else 4)
    { s with pc := s.pc + 1 + sext16 d })

/-- A branch that is not taken. -/
def branchPassed (s : State) : StepOutcome := .next (tick 2 { s with pc := s.pc + 1 })

section branch
variable {op : Op} (h : gridCell op .relative = some (2, false)) (f : Flag) (d : Byte) (s : State)
include h

theorem branch_eq (cond : State → Bool) :
    branch op cond d s = if cond s then branchTaken d s else branchPassed s := by
  have hfall : s.pcAfter .relative = s.pc + 1 := rfl
  simp only [branch, hfall, charge_of_gridCell h, finish, branchTaken, branchPassed, bne_iff_ne]
  by_cases hpage : highByte (s.pc + 1 + sext16 d) = highByte (s.pc + 1)
  · rw [if_neg (not_not_intro hpage), if_pos hpage]
    rfl
  · rw [if_pos hpage, if_neg hpage]
    rfl

theorem branch_set : branch op (fun t => t.flag f) d s = if s.flag f then branchTaken d s else branchPassed s :=
  branch_eq h d s _

theorem branch_clear : branch op (fun t => !t.flag f) d s = if s.flag f then branchPassed s else branchTaken d s := by
  rw [branch_eq h]
  cases s.flag f <;> rfl

end branch

end Sys2Proof.Machine

namespace Sys2Proof.Proofs.ControlTransfer
open Sys2Proof.Machine

/-- Settles O21: RTI pulls the frame that the entry pushed (`step_nmi_stack`), whose P has lost B already. -/
theorem rtiAfterNmi : Obligations.RtiAfterNmi := by
  intro s t hrun hnmi hstep
  obtain ⟨hsp, hram⟩ := step_nmi_stack hrun hnmi hstep
  obtain ⟨-, -, -, -, -, -, hrti, -⟩ := Addressing.jumpsComplete { t with pc := t.pc + 1 }
  have h1 : s.sp - 3 + 1 = s.sp - 2 := by bv_omega
  have h2 : s.sp - 3 + 2 = s.sp - 1 := by bv_omega
  have h3 : s.sp - 3 + 3 = s.sp := by bv_omega
  refine ⟨_, hrti, ?counter, ?pointer, ?status⟩
  case counter =>
    rw [tick_pc, hsp, hram, h2, h3]
    exact (wordAt_write ..).trans (wordAt_pushedWord ..)
  case pointer => rw [tick_sp, hsp, h3]
  case status =>
    rw [tick_p, hsp, hram, h1, Memory.read_write_same]
    exact withoutBreak_withoutBreak s.p

/-- Settles O42: RTS pulls the word that JSR pushed (`exec_jsr_stack`), and adds one. -/
theorem rtsAfterJsr : Obligations.RtsAfterJsr := by
  intro s t a h
  obtain ⟨hpc, hsp, hram⟩ := exec_jsr_stack h
  obtain ⟨-, -, -, -, -, hrts, -⟩ := Addressing.jumpsComplete { t with pc := t.pc + 1 }
  have h1 : s.sp - 2 + 1 = s.sp - 1 := by bv_omega
  have h2 : s.sp - 2 + 2 = s.sp := by bv_omega
  have hadd : s.pc + 1 + 1 = s.pc + 2 := by bv_omega
  refine ⟨hpc, _, hrts, ?counter, ?pointer⟩
  case counter =>
    rw [tick_pc, hsp, hram, h1, h2, ← hadd]
    exact congrArg (· + 1) (wordAt_pushedWord ..)
  case pointer => rw [tick_sp, hsp, h2]

/-- Settles O43: each branch by its flag, set or clear, and the codes are the table's. -/
theorem branchesComplete : Obligations.BranchesComplete := by
  intro d s
  exact ⟨branch_clear (by decide) .n d s, branch_set (by decide) .n d s, branch_clear (by decide) .v d s,
    branch_set (by decide) .v d s, branch_clear (by decide) .c d s, branch_set (by decide) .c d s,
    branch_clear (by decide) .z d s, branch_set (by decide) .z d s, rfl, rfl, rfl, rfl, rfl, rfl, rfl, rfl⟩

/-- Settles O44: the outcome is a halted state, which every step answers with itself (`step_halted`). -/
theorem brkHalts : Obligations.BrkHalts := by
  intro s
  have hbrk : exec .brk s = .next { tick 7 s with run := .halted } := by
    have hcharge : charge .brk .implied false = 7 := by decide
    have hpc : s.pcAfter .implied = s.pc := BitVec.add_zero s.pc
    simp only [exec, execBrk, hcharge, hpc]
    rfl
  refine ⟨hbrk, fun t ht => ?halted, rfl⟩
  case halted =>
    rw [hbrk] at ht
    cases ht
    exact step_halted rfl

/-- Settles O45: two implied forms of 2 cycles, and the read class with no effect. -/
theorem nopsComplete : Obligations.NopsComplete := by
  intro s
  simp only [exec, execNop, execNopUndoc]
  refine ⟨impliedClass_two (by decide) _ s, fun _ => impliedClass_two (by decide) _ s,
    fun code o v crossed t hwf hr => ?read⟩
  case read => exact readClass_completes (by decide) rfl rfl hwf hr

end Sys2Proof.Proofs.ControlTransfer
end

section
/-! The stack instructions (O47) and the flag instructions (O48): implied instructions that push or pull one byte, and
those that write one bit of P. -/

namespace Sys2Proof.Machine

/-! ## One push, one pull (R110) -/

/-- An implied instruction of 3 cycles that pushes a byte: stack RAM, SP and the Tick. -/
theorem push_advance {op : Op} (h : gridCell op .implied = some (3, false)) (v : Byte) (s : State) :
    (push v s).andThen (fun _ t => advance op .implied false 0 t) =
      .next (tick 3 { s with ram := s.ram.write (stackIndex s.sp) v, sp := s.sp - 1 }) := by
  rw [push_eq, Access.andThen_ok, advance_implied h]
  rfl

/-- An implied instruction of 4 cycles that pulls a byte: its effect runs in the state that has the new SP. -/
theorem pull_advance {op : Op} (h : gridCell op .implied = some (4, false)) (effect : Byte → State → State)
    (s : State) :
    (pull s).andThen (fun v t => advance op .implied false 0 (effect v t)) =
      .next (tick 4 (effect (s.ram.read (stackIndex (s.sp + 1))) { s with sp := s.sp + 1 })) := by
  rw [pull_eq, Access.andThen_ok, advance_implied h]
  rfl

/-! ## One flag (R37 to R43) -/

section flagOp
variable {op : Op} {f : Flag} {mask : Byte} (h : gridCell op .implied = some (2, false))
include h

/-- An implied instruction of 2 cycles that clears a flag keeps the other bits of P. -/
theorem flagOp_clear (hmask : ~~~(BitVec.twoPow 8 f.bit) = mask) (s : State) :
    impliedClass op (fun t => t.setFlag f false) s = .next (tick 2 { s with p := s.p &&& mask }) := by
  rw [impliedClass_two h, ← hmask]
  rfl

/-- An implied instruction of 2 cycles that sets a flag keeps the other bits of P. -/
theorem flagOp_set (hmask : BitVec.twoPow 8 f.bit = mask) (s : State) :
    impliedClass op (fun t => t.setFlag f true) s = .next (tick 2 { s with p := s.p ||| mask }) := by
  rw [impliedClass_two h, ← hmask]
  rfl

end flagOp

end Sys2Proof.Machine

namespace Sys2Proof.Proofs.StackAndFlags
open Sys2Proof.Machine

/-- Settles O47: two push one byte, A or P with B and U set, and two pull one, into A with its Z and N or into P
without B; the codes are the table's. -/
theorem stackOpsComplete : Obligations.StackOpsComplete := by
  intro s
  simp only [exec, execPha, execPhp, execPla, execPlp]
  refine ⟨push_advance (by decide) s.a s, push_advance (by decide) (s.p ||| 0x30) s, ?pla, ?plp, rfl, rfl, rfl, rfl⟩
  case pla =>
    rw [pull_advance (by decide) (fun v t => (t.setA v).setZN v), setZN_eq]
    rfl
  case plp => exact pull_advance (by decide) (fun v t => t.setP (withoutBreak v)) s

/-- Settles O48: four clear and three set their flag, by the mask of its bit; the codes are the table's. -/
theorem flagOpsComplete : Obligations.FlagOpsComplete := by
  intro s
  simp only [exec, execClc, execSec, execCli, execSei, execCld, execSed, execClv]
  exact ⟨flagOp_clear (by decide) (by decide) s, flagOp_set (by decide) (by decide) s,
    flagOp_clear (by decide) (by decide) s, flagOp_set (by decide) (by decide) s,
    flagOp_clear (by decide) (by decide) s, flagOp_set (by decide) (by decide) s,
    flagOp_clear (by decide) (by decide) s, rfl, rfl, rfl, rfl, rfl, rfl, rfl⟩

end Sys2Proof.Proofs.StackAndFlags
end

section
/-! The undocumented composites completed (O40): the second operation works on the byte that the first one wrote, in
the state after the write. -/

namespace Sys2Proof.Machine

/-! ## A and P after a read-modify-write (R350) -/

/-- A well-formed read-modify-write whose second operation writes A and P. -/
theorem rmwClass_accumulator {i : Instr} {op : Op} {m : MemOperand} {core : Byte → State → Byte × State}
    {after : Byte → State → State} {s u w w' t : State} {e : EffAddr} {v r a p : Byte} {stall : Nat}
    (hop : op ∈ rmwOps) (ho : i.op = some op) (hmode : i.mode = m.mode) (hr : resolve m s = .ok e u)
    (hv : busRead e.ea u = .ok v w) (hcore : core v w = (r, w')) (hafter : after r t = { t with a := a, p := p })
    (hwf : i.wellFormed = true) (hw : busWrite e.ea r w' = .ok stall t) :
    rmwClass op m core after s = .next (tick (rmwCycles m + stall)
      { t with a := a, p := p, pc := t.pc + BitVec.ofNat 16 m.bytes.length }) := by
  rw [rmwClass_completes hop ho hmode hr hv hcore hwf hw, hafter]

end Sys2Proof.Machine

namespace Sys2Proof.Proofs.Undocumented
open Sys2Proof.Machine

/-- Settles O40: each first operation by its core's byte and the state it gives for the write, each second one by the
A and P that it leaves. -/
theorem compositesComplete : Obligations.CompositesComplete := by
  intro m s u w t e v r stall hr hv
  simp only [exec, execSlo, execRla, execSre, execRra, execDcp, execIsb]
  refine ⟨fun hwf hb hw => ?slo, fun hwf hb hw => ?rla, fun hwf hb hw => ?sre, fun hwf hb hw => ?rra,
    fun hwf hb hw => ?dcp, fun hwf hb hw => ?isb⟩
  case slo => exact rmwClass_accumulator (by decide) rfl rfl hr hv (hb ▸ aslCore_eq v w) (setZN_eq ..) hwf hw
  case rla => exact rmwClass_accumulator (by decide) rfl rfl hr hv (hb ▸ rolCore_eq v w) (setZN_eq ..) hwf hw
  case sre => exact rmwClass_accumulator (by decide) rfl rfl hr hv (hb ▸ lsrCore_eq v w) (setZN_eq ..) hwf hw
  case rra => exact rmwClass_accumulator (by decide) rfl rfl hr hv (hb ▸ rorCore_eq v w) (addCore_eq ..) hwf hw
  case dcp => exact rmwClass_accumulator (by decide) rfl rfl hr hv (hb ▸ rfl) (compareCore_eq ..) hwf hw
  case isb => exact rmwClass_accumulator (by decide) rfl rfl hr hv (hb ▸ rfl) (addCore_eq ..) hwf hw

end Sys2Proof.Proofs.Undocumented
end

section
/-! VBLANK, the pending NMI and frame complete over a tick (O13, O15): what R414's loop leaves of them, by the position
that it starts from and the line that it stops in. -/

namespace Sys2Proof.Machine

theorem Ppu.InFrame.position_lt {p : Ppu} (h : p.InFrame) : p.position < frameDots := by
  obtain ⟨hline, hdot⟩ := h
  simp only [Ppu.position, frameDots]
  omega

/-- Line 241 begins at its own dot of the frame (R413). -/
theorem Ppu.InFrame.vblank_iff {p : Ppu} (h : p.InFrame) : 241 ≤ p.scanline ↔ 241 * 341 ≤ p.position := by
  have hdot := h.2
  simp only [Ppu.position]
  omega

/-- R414's loop answers frame complete exactly when the dots it is given reach the end of the frame. -/
theorem ppuLines_frameComplete (r : SpriteEval) (n : Nat) {p : Ppu} (h : p.scanline < 262) (hn : p.dot / 341 ≤ n) :
    (ppuLines r n p).2 = decide (frameDots ≤ p.position) := by
  have short {p : Ppu} (h : p.scanline < 262) (hd : p.dot < 341) : false = decide (frameDots ≤ p.position) :=
    (decide_eq_false (Nat.not_le.2 (Ppu.InFrame.position_lt ⟨h, hd⟩))).symm
  induction n generalizing p with
  | zero => exact short h (by omega)
  | succ n ih =>
    by_cases hd : p.dot < 341
    · rw [ppuLines_of_dot_lt r _ hd]
      exact short h hd
    · obtain ⟨hdot, hline, -, -, hwrapped⟩ := ppuLine_facts r p
      obtain ⟨hplain, hwrap⟩ := ppuLine_position r (p := p) (by omega)
      have hrest := ih (p := (ppuLine r p).1) (by rw [hline]; split <;> omega) (by omega)
      simp only [ppuLines, if_neg hd, hwrapped, hrest]
      by_cases hlast : p.scanline = 261
      · obtain ⟨-, hback⟩ := hwrap hlast
        have hend : frameDots ≤ p.position := by omega
        rw [decide_eq_true hend, hlast]
        rfl
      · obtain ⟨-, hsame⟩ := hplain hlast
        rw [decide_eq_false (show ¬p.scanline + 1 = 262 by omega), hsame, Bool.false_or]

/-- Leaving line 240 sets VBLANK and raises the NMI, the wrap clears both, and no other line moves them (R414). -/
theorem ppuLine_vblank (r : SpriteEval) (p : Ppu) :
    (p.scanline ≠ 261 →
      (ppuLine r p).1.vblank = (p.vblank || decide (p.scanline = 240)) ∧
      (ppuLine r p).1.nmiPending = (p.nmiPending || (decide (p.scanline = 240) && p.nmiEnable))) ∧
    (p.scanline = 261 → (ppuLine r p).1.vblank = false ∧ (ppuLine r p).1.nmiPending = false) := by
  obtain ⟨-, -, hvblank, hnmi, -⟩ := ppuLine_facts r p
  rw [hvblank, hnmi]
  refine ⟨fun hp => ?_, fun hp => by simp [hp]⟩
  by_cases h : p.scanline = 240 <;> simp [h, hp]

/-- What R414's loop leaves in `q` of VBLANK and the pending NMI of a PPU `p` that it starts from: within the frame,
entering line 241 sets them; after a wrap they are those of the lines entered since. -/
def VblankLeft (p q : Ppu) : Prop :=
  p.scanline < 262 → q.InFrame → q.position = p.position % frameDots →
    (p.position < frameDots →
      q.vblank = (p.vblank || decide (p.scanline < 241 ∧ 241 ≤ q.scanline)) ∧
      q.nmiPending = (p.nmiPending || (decide (p.scanline < 241 ∧ 241 ≤ q.scanline) && p.nmiEnable))) ∧
    (frameDots ≤ p.position →
      q.vblank = decide (241 ≤ q.scanline) ∧
      q.nmiPending = (decide (241 ≤ q.scanline) && p.nmiEnable))

theorem vblankLeft_stop (p : Ppu) (h : p.dot < 341) : VblankLeft p p := by
  intro hline _ _
  have hpos := Ppu.InFrame.position_lt ⟨hline, h⟩
  refine ⟨fun _ => ?_, fun hge => by omega⟩
  rw [decide_eq_false (by omega), Bool.or_false, Bool.false_and, Bool.or_false]
  exact ⟨rfl, rfl⟩

theorem vblankLeft_line (r : SpriteEval) (p q : Ppu) (h : 341 ≤ p.dot) (ih : VblankLeft (ppuLine r p).1 q) :
    VblankLeft p q := by
  intro hline hq hpos
  obtain ⟨hplain, hwrap⟩ := ppuLine_position r h
  obtain ⟨hset, hclear⟩ := ppuLine_vblank r p
  have henable : (ppuLine r p).1.nmiEnable = p.nmiEnable :=
    congrArg (BitVec.getLsbD · 7) (sameData_ppuLine r p).ctrl
  have hqpos : q.position = 341 * q.scanline + q.dot := rfl
  have hppos : p.position = 341 * p.scanline + p.dot := rfl
  have hqdot := hq.2
  unfold VblankLeft at ih
  rw [henable] at ih
  by_cases hlast : p.scanline = 261
  · obtain ⟨hnext, hback⟩ := hwrap hlast
    obtain ⟨hv, hp⟩ := hclear hlast
    rw [hnext, hv, hp] at ih
    obtain ⟨hin, hafter⟩ := ih (by omega) hq (by rw [hpos, ← hback, Nat.add_mod_right])
    refine ⟨fun hlt => by omega, fun _ => ?_⟩
    by_cases hframe : (ppuLine r p).1.position < frameDots
    · simpa using hin hframe
    · exact hafter (by omega)
  · obtain ⟨hnext, hsame⟩ := hplain hlast
    obtain ⟨hv, hp⟩ := hset hlast
    rw [hnext, hsame, hv, hp] at ih
    obtain ⟨hin, hafter⟩ := ih (by omega) hq hpos
    refine ⟨fun hlt => ?_, hafter⟩
    have hleft : p.scanline < q.scanline := by
      rw [Nat.mod_eq_of_lt hlt] at hpos
      omega
    have hcross : decide (p.scanline < 241 ∧ 241 ≤ q.scanline) =
        (decide (p.scanline = 240) || decide (p.scanline + 1 < 241 ∧ 241 ≤ q.scanline)) := by
      rw [← Bool.decide_or, decide_eq_decide]
      omega
    rw [hcross, Bool.and_or_distrib_right, ← Bool.or_assoc, ← Bool.or_assoc]
    exact hin hlt

theorem ppuTick_vblankLeft (r : SpriteEval) (n : Nat) (p : Ppu) :
    VblankLeft { p with dot := p.dot + n } (ppuTick r n p).1 :=
  ppuLines_induction vblankLeft_stop (vblankLeft_line r) _ (Nat.le_refl _)

/-- A tick answers frame complete exactly when it reaches the end of the frame (R414). -/
theorem ppuTick_frameComplete (r : SpriteEval) (n : Nat) {p : Ppu} (h : p.InFrame) :
    (ppuTick r n p).2 = decide (frameDots ≤ p.position + n) := by
  rw [← position_add_dot]
  exact ppuLines_frameComplete r _ h.1 (Nat.le_refl _)

end Sys2Proof.Machine

namespace Sys2Proof.Proofs.TickVblank
open Sys2Proof.Machine

/-- Settles O13: frame complete by the dots that reach the end of the frame, VBLANK and the pending NMI by
`VblankLeft`. -/
theorem tickVblank : Obligations.TickVblank := by
  intro rule n p hp
  obtain ⟨hin, hpos⟩ := ppuTick_position rule n hp
  have hdone := ppuTick_frameComplete rule n hp
  obtain ⟨hframe, hwrap⟩ := ppuTick_vblankLeft rule n p hp.1 hin (by rw [hpos, position_add_dot])
  simp only [position_add_dot] at hframe hwrap
  simp only [hin.vblank_iff, hpos] at hwrap
  refine ⟨fun hlt => ?within, fun hge => ⟨hdone.trans (decide_eq_true hge), hwrap hge⟩⟩
  case within =>
    have hcross : (p.scanline < 241 ∧ 241 ≤ (ppuTick rule n p).1.scanline) ↔
        (p.position < 241 * 341 ∧ 241 * 341 ≤ p.position + n) := by
      rw [hin.vblank_iff, hpos, Nat.mod_eq_of_lt hlt, ← Nat.not_le, hp.vblank_iff, Nat.not_le]
    obtain ⟨hv, hnmi⟩ := hframe hlt
    refine ⟨hdone.trans (decide_eq_false (by omega)), fun h => ?_, fun h => ?_⟩
    · rw [decide_eq_true (hcross.2 h)] at hv hnmi
      exact ⟨hv.trans (Bool.or_true _), hnmi⟩
    · rw [decide_eq_false (mt hcross.1 h)] at hv hnmi
      exact ⟨hv.trans (Bool.or_false _), hnmi.trans (Bool.or_false _)⟩

/-- Settles O15: the named updates of `tick`, written out. -/
theorem busTick : Obligations.BusTick := fun _ _ => rfl

end Sys2Proof.Proofs.TickVblank
end

section
/-! A step's clock (O16), the NMI entry (O20) and the state that a fault leaves (O22): up to its Tick a step moves no
time and reports nothing, whatever it does. -/

namespace Sys2Proof.Machine

/-! ## Up to the Tick -/

/-- A predicate that does not tell apart two states with the same CPU and time is kept by every bus access. -/
theorem keptByBus_of_sameCpu {P : State → Prop} (h : ∀ s t, SameCpu s t → P s → P t) : KeptByBus P where
  draw s := h s _ ((keptByBus_sameCpu s).draw s (.rfl' s))
  status s := h s _ ((keptByBus_sameCpu s).status s (.rfl' s))
  increment s := h s _ ((keptByBus_sameCpu s).increment s (.rfl' s))
  readBuf s b := h s _ ((keptByBus_sameCpu s).readBuf s b (.rfl' s))
  ctrl s v := h s _ ((keptByBus_sameCpu s).ctrl s v (.rfl' s))
  mask s v := h s _ ((keptByBus_sameCpu s).mask s v (.rfl' s))
  oamAddr s v := h s _ ((keptByBus_sameCpu s).oamAddr s v (.rfl' s))
  oam s v := h s _ ((keptByBus_sameCpu s).oam s v (.rfl' s))
  scroll s v := h s _ ((keptByBus_sameCpu s).scroll s v (.rfl' s))
  addr s v := h s _ ((keptByBus_sameCpu s).addr s v (.rfl' s))
  chr s i v hi hram := h s _ ((keptByBus_sameCpu s).chr s i v hi hram (.rfl' s))
  vram s i v hi := h s _ ((keptByBus_sameCpu s).vram s i v hi (.rfl' s))
  palette s i v hi := h s _ ((keptByBus_sameCpu s).palette s i v hi (.rfl' s))
  cursor s hlt hs := h s _ ((keptByBus_sameCpu s).cursor s hlt hs (.rfl' s))
  latch s v := h s _ ((keptByBus_sameCpu s).latch s v (.rfl' s))
  ram s i v hi := h s _ ((keptByBus_sameCpu s).ram s i v hi (.rfl' s))
  prgRam s i v hi := h s _ ((keptByBus_sameCpu s).prgRam s i v hi (.rfl' s))

/-- `u` stands at the time of `s`, with its step report clear. -/
structure Untimed (s u : State) : Prop where
  cycles        : u.cycles = s.cycles
  scanline      : u.ppu.scanline = s.ppu.scanline
  dot           : u.ppu.dot = s.ppu.dot
  frameEvent    : u.frameEvent = false
  frameComplete : u.frameComplete = false

namespace Untimed
variable {s t u : State}

theorem of_sameCpu (h : SameCpu t u) (k : Untimed s t) : Untimed s u :=
  ⟨h.cycles.trans k.cycles, h.scanline.trans k.scanline, h.dot.trans k.dot, h.frameEvent.trans k.frameEvent,
    h.frameComplete.trans k.frameComplete⟩

theorem position (h : Untimed s u) : u.ppu.position = s.ppu.position := by
  simp only [Ppu.position, h.scanline, h.dot]

theorem inFrame (h : Untimed s u) (hs : s.ppu.InFrame) : u.ppu.InFrame :=
  ⟨h.scanline ▸ hs.1, h.dot ▸ hs.2⟩

/-- A state whose report is clear already is not changed by clearing it. -/
theorem setReport_eq (h : Untimed s u) : u.setReport false false = u := by
  obtain ⟨-, -, -, hevent, hcomplete⟩ := h
  cases u
  cases hevent
  cases hcomplete
  rfl

end Untimed

/-- No instruction moves time before its Tick, and none writes the report. -/
theorem kept_untimed (s : State) : Kept (Untimed s) where
  toKeptByBus := keptByBus_of_sameCpu fun _ _ => .of_sameCpu
  setA _ _ h := { h with }
  setX _ _ h := { h with }
  setY _ _ h := { h with }
  setSp _ _ h := { h with }
  setPc _ _ h := { h with }
  setFlag _ _ _ _ _ h := { h with }
  loadP _ _ h := { h with }

/-- A step answers the same when its report is clear at its start, since it clears it. -/
theorem step_setReport (s : State) : step (s.setReport false false) = step s := rfl

/-- A step that completes stays at its time or ticks once from it; a step that faults is of a kind `i` and leaves a
state at its time with RUN = Faulted(i) (R170, R386). -/
theorem step_untimed (s : State) :
    (∀ t, step s = .next t → Untimed s t ∨
      ∃ n u, Untimed s u ∧ t.cycles = u.cycles + n ∧ t.ppu = (ppuTick u.config.spriteEval (3 * n) u.ppu).1) ∧
    (∀ f, step s = .fault f → ∃ u i, Untimed s u ∧ u.run = .faulted i ∧ f = faultWith i u) := by
  have key := (kept_untimed s).step (fun _ h => { h with frameEvent := rfl, frameComplete := rfl })
    (fun _ h => { h with }) (s := s.setReport false false) ⟨rfl, rfl, rfl, rfl, rfl⟩
  rw [step_setReport] at key
  refine ⟨fun t ht => ?next, fun f hf => ?fault⟩
  case next =>
    rw [ht] at key
    obtain hstay | ⟨n, u, hu, rfl | rfl | ⟨v, rfl⟩⟩ := key
    · exact .inl hstay
    all_goals exact .inr ⟨n, u, hu, rfl, rfl⟩
  case fault =>
    rw [hf] at key
    obtain ⟨u, i, hu, rfl⟩ | ⟨i, hrun, rfl⟩ := key
    · exact ⟨u.setRun (.faulted i), i, { hu with }, rfl, rfl⟩
    · exact ⟨s.setReport false false, i, ⟨rfl, rfl, rfl, rfl, rfl⟩, hrun, rfl⟩

/-! ## The NMI entry (R392, R393) -/

theorem step_nmi {s : State} (hrun : s.run = .running) (hnmi : s.ppu.nmiPending = true) :
    step s = nmiEntry ((s.setReport false false).setPpu { s.ppu with nmiPending := false }) := by
  rw [step_running hrun, runStep, if_pos (show (s.setReport false false).ppu.nmiPending = true from hnmi)]
  rfl

/-- What the NMI entry writes before its Tick: stack RAM, SP and I. -/
theorem nmiPushed_eq (s : State) :
    nmiPushed s = { s with
      ram := ((s.ram.write (stackIndex s.sp) (highByte s.pc)).write (stackIndex (s.sp - 1)) (lowByte s.pc)).write
        (stackIndex (s.sp - 2)) ((s.p &&& 0xEF) ||| 0x20)
      sp := s.sp - 3
      p := s.p ||| 0x04 } := by
  have h2 : s.sp - 1 - 1 = s.sp - 2 := by bv_omega
  have h3 : s.sp - 2 - 1 = s.sp - 3 := by bv_omega
  rw [nmiPushed, h2, h3]
  rfl

end Sys2Proof.Machine

namespace Sys2Proof.Proofs.StepTime
open Sys2Proof.Machine

/-- Settles O16: the step stays at its time, or ticks once from it. -/
theorem stepClock : Obligations.StepClock := by
  intro s t hs hstep
  obtain hstay | ⟨n, u, hu, hcycles, hppu⟩ := (step_untimed s).1 t hstep
  · refine ⟨hstay.cycles.ge, hstay.inFrame hs, ?_⟩
    rw [hstay.position, hstay.cycles, Nat.sub_self, Nat.mul_zero, Nat.add_zero, Nat.mod_eq_of_lt hs.position_lt]
  · obtain ⟨hin, hpos⟩ := ppuTick_position u.config.spriteEval (3 * n) (hu.inFrame hs)
    rw [hu.cycles] at hcycles
    rw [← hppu, hu.position] at hpos
    refine ⟨by omega, hppu ▸ hin, ?_⟩
    rw [hpos, hcycles, Nat.add_sub_cancel_left]

/-- Settles O20. -/
theorem nmiEntry : Obligations.NmiEntry := by
  intro s hrun hnmi
  rw [step_nmi hrun hnmi, nmiEntry_eq, nmiPushed_eq]
  rfl

/-- Settles O22: the fault leaves a faulted machine whose report is clear, which answers its fault again. -/
theorem faultIsTerminal : Obligations.FaultIsTerminal := by
  intro s f hstep
  obtain ⟨u, i, hu, hrun, rfl⟩ := (step_untimed s).2 f hstep
  rw [left_faultWith, info_faultWith]
  refine ⟨hrun, hu.cycles, hu.scanline, hu.dot, ?_⟩
  rw [step_faulted hrun, hu.setReport_eq]

end Sys2Proof.Proofs.StepTime
end

section
/-! The PPU's registers as the CPU reads and writes them (O54 to O56, O58), at every mirror of the window, and the input
latch (O60). -/

namespace Sys2Proof.Machine

/-! ## The window's writes (R84) -/

section window
variable {a : Addr} {v : Byte} {s : State}

/-- A write of the window that completes adds no cycle. -/
theorem busWrite_window (hw : 0x2000 ≤ a.toNat ∧ a.toNat < 0x4000) {t : State} (h : ppuRegWrite a v s = .ok () t) :
    busWrite a v s = .ok 0 t := by
  simp only [busWrite, busCell_ppuReg hw, h, Access.bind_ok]

theorem ppuRegWrite_ctrl (h : a.toNat % 8 = 0) : ppuRegWrite a v s = .ok () (s.setPpu (s.ppu.writeCtrl v)) := by
  simp only [ppuRegWrite, h]

theorem ppuRegWrite_mask (h : a.toNat % 8 = 1) : ppuRegWrite a v s = .ok () (s.setPpu { s.ppu with mask := v }) := by
  simp only [ppuRegWrite, h]

theorem ppuRegWrite_oamAddr (h : a.toNat % 8 = 3) :
    ppuRegWrite a v s = .ok () (s.setPpu { s.ppu with oamAddr := v }) := by
  simp only [ppuRegWrite, h]

theorem ppuRegWrite_oamData (h : a.toNat % 8 = 4) : ppuRegWrite a v s = .ok () (s.setPpu (s.ppu.writeOam v)) := by
  simp only [ppuRegWrite, h]

theorem ppuRegWrite_scroll (h : a.toNat % 8 = 5) : ppuRegWrite a v s = .ok () (s.setPpu (s.ppu.writeScroll v)) := by
  simp only [ppuRegWrite, h]

theorem ppuRegWrite_addr (h : a.toNat % 8 = 6) : ppuRegWrite a v s = .ok () (s.setPpu (s.ppu.writeAddr v)) := by
  simp only [ppuRegWrite, h]

end window

/-! ## The registers -/

/-- The bits of a status read (R61, R403). -/
theorem Ppu.status_bits (p : Ppu) :
    p.status.getLsbD 7 = p.vblank ∧ p.status.getLsbD 6 = p.sprite0Hit ∧ p.status.getLsbD 5 = p.overflow ∧
      p.status.toNat % 32 = 0 := by
  unfold Ppu.status
  cases p.vblank <;> cases p.sprite0Hit <;> cases p.overflow <;> decide

/-- The second write of PPUADDR gives its low byte (R406). -/
theorem toNat_setLow (q : VAddr) (v : Byte) : (q.extractLsb' 8 6 ++ v).toNat = q.toNat / 256 * 256 + v.toNat := by
  have hv : v.toNat < 2 ^ 8 := v.isLt
  have hq : q.toNat < 2 ^ 14 := q.isLt
  rw [BitVec.toNat_append, ← Nat.shiftLeft_add_eq_or_of_lt hv, Nat.shiftLeft_eq, BitVec.extractLsb'_toNat,
    Nat.shiftRight_eq_div_pow]
  omega

/-- The first write of PPUADDR gives its high six bits (R406). -/
theorem toNat_setHigh (q : VAddr) (v : Byte) :
    (v.extractLsb' 0 6 ++ q.extractLsb' 0 8 : VAddr).toNat = v.toNat % 64 * 256 + q.toNat % 256 := by
  rw [BitVec.toNat_append, ← Nat.shiftLeft_add_eq_or_of_lt (BitVec.isLt _), Nat.shiftLeft_eq]
  simp only [BitVec.extractLsb'_toNat, Nat.shiftRight_zero]

theorem Ppu.writeAddr_eq (p : Ppu) (v : Byte) :
    p.writeAddr v = { p with vramAddr := (p.writeAddr v).vramAddr, w := !p.w } := by
  cases hw : p.w <;> simp [Ppu.writeAddr, hw]

theorem Ppu.toNat_writeAddr (p : Ppu) (v : Byte) :
    (p.writeAddr v).vramAddr.toNat = if p.w then p.vramAddr.toNat / 256 * 256 + v.toNat
      else v.toNat % 64 * 256 + p.vramAddr.toNat % 256 := by
  unfold Ppu.writeAddr
  split
  · exact toNat_setLow p.vramAddr v
  · exact toNat_setHigh p.vramAddr v

/-! ## The data port (R407, R408) -/

section dataPort
variable {a : Addr} {q : VAddr} {v b : Byte} {s t : State} {f : Fault}

/-- What the PPU address space reads does not depend on PPUADDR. -/
theorem ppuRead_increment (h : ppuRead q s = .ok b s) :
    ppuRead q (s.setPpu s.ppu.increment) = .ok b (s.setPpu s.ppu.increment) := by
  have hmirroring : (s.setPpu s.ppu.increment).ppu.mirroring = s.ppu.mirroring := rfl
  unfold ppuRead at h ⊢
  rw [hmirroring]
  split at h <;> cases h <;> rfl

/-- A read of the palette is no nametable's, so it completes (R104). -/
theorem ppuRead_palette (h : 0x3F00 ≤ q.toNat) (s : State) :
    ppuRead q s = .ok (s.ppu.palette.read (paletteIndex q)) s := by
  simp only [ppuRead, ppuCell_palette h]

theorem dataRead_palette (h : 0x3F00 ≤ s.ppu.vramAddr.toNat) :
    dataRead s = .ok (s.ppu.palette.read (paletteIndex s.ppu.vramAddr)) (s.setPpu s.ppu.increment) :=
  if_neg (Nat.not_lt.2 h)

/-- Below the palette a read makes its PPU access after the increment. -/
theorem dataRead_buffered (h : s.ppu.vramAddr.toNat < 0x3F00) :
    dataRead s = (ppuRead s.ppu.vramAddr (s.setPpu s.ppu.increment)).bind
      fun b t => .ok s.ppu.readBuf (t.setPpu { t.ppu with readBuf := b }) :=
  if_pos h

/-- A read faults with its PPU access, which is then below the palette. -/
theorem dataRead_fault (h : ppuRead s.ppu.vramAddr (s.setPpu s.ppu.increment) = .fault f) : dataRead s = .fault f := by
  by_cases hq : s.ppu.vramAddr.toNat < 0x3F00
  · rw [dataRead_buffered hq, h, Access.bind_fault]
  · rw [ppuRead_palette (Nat.not_lt.1 hq)] at h
    cases h

/-- A store in the PPU address space leaves PPUADDR and PPUCTRL, so the step of the increment. -/
theorem ppuWrite_port (h : ppuWrite a q v s = .ok () t) :
    t.ppu.vramAddr = s.ppu.vramAddr ∧ t.ppu.ctrl = s.ppu.ctrl := by
  unfold ppuWrite at h
  split at h
  · split at h
    · unfold illegalWrite at h
      split at h <;> cases h
      exact ⟨rfl, rfl⟩
    · cases h
      exact ⟨rfl, rfl⟩
  · cases h
    exact ⟨rfl, rfl⟩
  · cases h
    exact ⟨rfl, rfl⟩
  · cases h

/-- A write that completes stores at PPUADDR and then advances it by the step of the state before. -/
theorem dataWrite_ok (h : ppuWrite a s.ppu.vramAddr v s = .ok () t) :
    dataWrite a v s = .ok () (t.setPpu { t.ppu with vramAddr := s.ppu.vramAddr + s.ppu.step }) := by
  obtain ⟨haddr, hctrl⟩ := ppuWrite_port h
  have hstep : t.ppu.step = s.ppu.step := by simp only [Ppu.step, hctrl]
  rw [dataWrite, h, Access.bind_ok, Ppu.increment, haddr, hstep]

end dataPort

/-! ## The input latch (R424, R426) -/

theorem latchWrite_eq (v : Byte) (s : State) :
    latchWrite v s = { s with strobe := v.getLsbD 0, cursor := if v.getLsbD 0 then 0 else s.cursor } := by
  unfold latchWrite
  cases v.getLsbD 0 <;> rfl

/-- A read past the eighth button (R426). -/
theorem latchRead_past {s : State} (h : 8 ≤ s.cursor) : latchRead s = .ok 0x01 s := if_pos h

theorem latchRead_button {s : State} (h : s.cursor < 8) :
    latchRead s = .ok (if s.buttons.getLsbD s.cursor then 0x01 else 0x00)
      { s with cursor := if s.strobe then s.cursor else s.cursor + 1 } := by
  rw [latchRead, if_neg (Nat.not_le.2 h)]
  by_cases hs : s.strobe = true
  · rw [if_pos hs, if_pos hs]
  · rw [if_neg hs, if_neg hs]
    rfl

end Sys2Proof.Machine

namespace Sys2Proof.Proofs.Ports
open Sys2Proof.Machine

/-- Settles O54. -/
theorem statusControlMask : Obligations.StatusControlMask := fun _ _ s hw =>
  ⟨fun h => ⟨_, busRead_status s hw h, s.ppu.status_bits⟩, fun h => busWrite_window hw (ppuRegWrite_ctrl h),
    fun h => busWrite_window hw (ppuRegWrite_mask h)⟩

/-- Settles O55. -/
theorem scrollAndAddr : Obligations.ScrollAndAddr := by
  intro a v s hw
  refine ⟨fun h => busWrite_window hw (ppuRegWrite_scroll h), fun h => ⟨(s.ppu.writeAddr v).vramAddr, ?_, ?_⟩⟩
  · rw [busWrite_window hw (ppuRegWrite_addr h), Ppu.writeAddr_eq]
    rfl
  · exact s.ppu.toNat_writeAddr v

/-- Settles O56: the reads by the side of the palette that PPUADDR is on, the writes by the store. -/
theorem dataPort : Obligations.DataPort := by
  intro a v s hw h7
  dsimp only
  rw [busRead_data s hw h7, busWrite_data hw h7]
  refine ⟨fun hq b hb => ?palette, fun hq b hb => ?buffered, fun f => dataRead_fault, fun t ht => ?write,
    fun f hf => ?fault⟩
  case palette =>
    rw [ppuRead_palette hq] at hb
    cases hb
    exact dataRead_palette hq
  case buffered =>
    rw [dataRead_buffered hq, ppuRead_increment hb]
    rfl
  case write =>
    rw [dataWrite_ok ht]
    rfl
  case fault => rw [dataWrite, hf, Access.bind_fault, Access.bind_fault]

/-- Settles O58. -/
theorem oamPort : Obligations.OamPort := fun _ _ s hw =>
  ⟨fun h => busWrite_window hw (ppuRegWrite_oamAddr h),
    fun h => ⟨busRead_oamData s hw h, busWrite_window hw (ppuRegWrite_oamData h)⟩⟩

/-- Settles O60. -/
theorem inputLatch : Obligations.InputLatch := by
  intro v s
  have hread := busRead_inputLatch s (show (0x4016 : Addr).toNat = 0x4016 from rfl)
  refine ⟨?_, fun h => hread.trans (latchRead_past h), fun h => hread.trans (latchRead_button h)⟩
  rw [← latchWrite_eq]
  rfl

end Sys2Proof.Proofs.Ports
end

section
/-! `reset()` on the state (O6): the register writes of `resetRegisters`, PC and RUN as one update of the state, so that
every other field is the one it was. -/

namespace Sys2Proof.Proofs.Reset
open Sys2Proof.Machine

/-- Settles O6: the vector read lies in PRG-ROM, so it completes from any state and moves nothing
(`hostReset_eq`); what is left is register writes, and those are the record update by definition. -/
theorem resetSetsTheCpu : Obligations.ResetSetsTheCpu := by
  intro s
  rw [hostReset_eq]
  rfl

end Sys2Proof.Proofs.Reset
end
